-- ==== Sys2Proof/Word.lean ====
section
/-! DEFINITION. The words of the LH-DV1 and its plainest types: bytes, 32-bit registers, 64-bit
addresses, lane masks, and the finite map in which sparse state is held. -/

namespace Sys2Proof

/-- One byte of memory. -/
abbrev Byte := BitVec 8

/-- A register or instruction word (R40, Table 11.1). -/
abbrev Word := BitVec 32

/-- A 64-bit address, latch or register pair (R109, R181). -/
abbrev DWord := BitVec 64

/-- One bit for each of the 1,024 lanes a team can have (R30, R32). -/
abbrev LaneMask := BitVec 1024

/-- A finite map from numbers: keys strictly rising, absent keys read as the owner's default. -/
abbrev PMap (α : Type) := List (Nat × α)

end Sys2Proof
end

