-- ==== Sys2Proof/Syntax.lean ====
section
/-! DEFINITION. The syntax: every row of spec/opcode_table.json is one constructor of `Instr`.
The first 199 rows are encoded words (SIMT, matrix-stream and adverb words); the other rows are the
device's events, whose arguments are what the event carries. -/

namespace Sys2Proof

/-- A 6-bit register field as R14 reads it. -/
inductive Opd where
  | v (n : Fin 48)    -- lane register v[ix + n]
  | s (n : Fin 8)     -- uniform register s[six + n]
  | e (n : Fin 7)     -- bypass latch
  | zero              -- field 63
  deriving DecidableEq, Repr

/-- Rounding modes (Table 11.9). -/
inductive Rnd where
  | rn | rz | ru | rd | ro
  deriving DecidableEq, Repr

/-- Conditions of the register compare (R212). -/
inductive Cond where
  | eq | ne | lt | le | gt | ge | ltu | leu | gtu | geu
  deriving DecidableEq, Repr

/-- Conditions of the floating-point compares (R222). -/
inductive FCond where
  | eq | ne | lt | le | gt | ge | un
  deriving DecidableEq, Repr

/-- CVT forms, destination first (Table 12.6). -/
inductive CvtForm where
  | f16f32 | bf16f32 | shelf8f32 | s32f32 | u32f32 | f32f64 | s32f64 | s64f64
  | f32s32 | f32u32 | f64s64 | f32f16 | f32bf16 | f32shelf8 | f64f32 | f64s32
  deriving DecidableEq, Repr

/-- Reduction operations of RED, SEGRED, SCAN and WRED (R242). -/
inductive RedOp where
  | add | min | max | minu | maxu | fadd | fmin | fmax
  deriving DecidableEq, Repr

/-- Operations of major 0x25 (Table 16.4). -/
inductive AtomOp where
  | add | min | max | and | or | xor | xchg | cas
  deriving DecidableEq, Repr

/-- Operations of ARED: Table 16.4 leaves xchg and cas unassigned for it. -/
inductive AredOp where
  | add | min | max | and | or | xor
  deriving DecidableEq, Repr

/-- Scopes (Table 16.1). -/
inductive Scope where
  | core | die | device | domain | system
  deriving DecidableEq, Repr

/-- The ORD field of ADV.SCOPE (Table 3.10). -/
inductive Order where
  | none | acquire | release | acqrel
  deriving DecidableEq, Repr

/-- Cache hints (R53). -/
inductive Hint where
  | normal | stream | keep | bypass | last
  deriving DecidableEq, Repr

/-- Access sizes b, h, w, d, q (Table 8.3). -/
inductive Size where
  | b | h | w | d | q
  deriving DecidableEq, Repr

/-- Element formats of the butterfly engine (Table 14.4, XF). -/
inductive XFmt where
  | bf16 | f16 | shelf8 | i8
  deriving DecidableEq, Repr

/-- Result formats of BFS and BFCH (Table 14.4, YF). -/
inductive YFmt where
  | f32 | bf16 | f16 | acc
  deriving DecidableEq, Repr

/-- Sides of MCOPY (R274). -/
inductive MDir where
  | sa | as | ss | aa
  deriving DecidableEq, Repr

/-- Sources of MMOV (R256). -/
inductive MSrc where
  | m | sd | lc | eng
  deriving DecidableEq, Repr

/-! Operand groups: one record for each shape of encoded word. -/

/-- Format A with all of D, A, B, N, W, Z. -/
structure ABW where
  d : Opd
  a : Opd
  b : Opd
  n : Bool
  w : Bool
  z : Bool
  deriving DecidableEq, Repr

/-- Format A with B = 0. -/
structure AW where
  d : Opd
  a : Opd
  n : Bool
  w : Bool
  z : Bool
  deriving DecidableEq, Repr

/-- Format A with W fixed. -/
structure AB where
  d : Opd
  a : Opd
  b : Opd
  n : Bool
  z : Bool
  deriving DecidableEq, Repr

/-- Format A with B = 0 and W fixed. -/
structure A1 where
  d : Opd
  a : Opd
  n : Bool
  z : Bool
  deriving DecidableEq, Repr

/-- Format I, register and 12-bit immediate. -/
structure ImmOp where
  d : Opd
  a : Opd
  imm : BitVec 12
  n : Bool
  z : Bool
  deriving DecidableEq, Repr

/-- Format I shifts. -/
structure ShOp where
  d : Opd
  a : Opd
  c : BitVec 5
  n : Bool
  z : Bool
  deriving DecidableEq, Repr

/-- Three flag indices (R216). -/
structure K3 where
  d : BitVec 3
  a : BitVec 3
  b : BitVec 3
  z : Bool
  deriving DecidableEq, Repr

/-- Two flag indices. -/
structure K2 where
  d : BitVec 3
  a : BitVec 3
  z : Bool
  deriving DecidableEq, Repr

/-- A register destination from a flag (POLL.MASK, POLL.CNT). -/
structure DK where
  d : Opd
  a : BitVec 3
  n : Bool
  z : Bool
  deriving DecidableEq, Repr

/-- RED, SCAN and WRED. -/
structure RedF where
  d : Opd
  a : Opd
  op : RedOp
  n : Bool
  z : Bool
  deriving DecidableEq, Repr

/-- Format M loads: destination, base, counter, offset. -/
structure LdF where
  d : Opd
  a : Opd
  ac : BitVec 4
  off : BitVec 8
  z : Bool
  deriving DecidableEq, Repr

/-- LDP and STP: register, base, size, offset. -/
structure PadF where
  d : Opd
  a : Opd
  sz : Size
  off : BitVec 8
  z : Bool
  deriving DecidableEq, Repr

/-- Stores: data, base, offset, release. -/
structure StF where
  d : Opd
  a : Opd
  off : BitVec 8
  q : Bool
  z : Bool
  deriving DecidableEq, Repr

/-- GATH. -/
structure GathF where
  d : Opd
  a : Opd
  b : Opd
  ac : BitVec 4
  z : Bool
  deriving DecidableEq, Repr

/-- Format B: word offset, flag or none, pop flag. -/
structure BrK where
  off : BitVec 21
  k : BitVec 3
  p : Bool
  deriving DecidableEq, Repr

/-- Indirect transfers (R342). -/
structure IndF where
  a : Opd
  tag : BitVec 8
  deriving DecidableEq, Repr

/-- BFS and BFCH: shape register, address set, stage or count, formats, rounding. -/
structure BfF where
  d : BitVec 5
  a : BitVec 5
  b : BitVec 6
  xf : XFmt
  yf : YFmt
  rnd : Rnd
  z : Bool
  deriving DecidableEq, Repr

/-- Matrix scalar arithmetic (R254): m[d] := f(m[a], b), b a register or a number. -/
structure MOp where
  d : BitVec 5
  a : BitVec 5
  b : BitVec 6
  i : Bool
  z : Bool
  deriving DecidableEq, Repr

/-! What the events carry. -/

/-- A Harbour command header (Table 5.2). -/
structure Hdr where
  opc : BitVec 8
  ctx : BitVec 8
  len : BitVec 16
  seq : Word
  tag : DWord
  deriving DecidableEq, Repr

/-- A command as it arrives on a host session (R80, R81). -/
structure Cmd where
  sess : Nat
  hdr : Hdr
  pay : List Word
  deriving DecidableEq, Repr

/-- A grant record (R80, R424): the contexts it names and the device-rights bit. -/
structure Grant where
  allCtx : Bool
  ctxs : List Nat
  rights : Bool
  deriving DecidableEq, Repr

/-- How a stack controller finds a sector it reads (R73, R74). -/
inductive EccResult where
  | clean | corrected | uncorrectable
  deriving DecidableEq, Repr

/-- What a remote request asks of the owner (R96, R97). -/
inductive RemoteOp where
  | read (len : Nat)
  | write (bytes : List Byte)
  | atom (op : AtomOp) (wide : Bool) (y cmp : DWord) (ret : Bool)
  | cas128 (cmp new : BitVec 128)
  deriving DecidableEq, Repr

/-- A request of another device that reaches this device (R96). -/
structure RemoteIn where
  id : Nat
  dev : Nat
  ctx : Nat
  lpa : Nat
  op : RemoteOp
  deriving DecidableEq, Repr

/-- How a remote request of this device is answered (R98, R99). -/
inductive RemoteAns where
  | data (bytes : List Byte)
  | done
  | refused
  | poisoned
  deriving DecidableEq, Repr

/-- A completion record of the switches (Table 5.9) with the result elements. -/
structure CollAns where
  complete : Bool
  missing : DWord
  result : List Byte
  deriving DecidableEq, Repr

/-- What a lasting error hit (R427). -/
inductive LastingAt where
  | row (stack row : Nat)
  | pool (core : Nat)
  deriving DecidableEq, Repr

/-- Where a temperature is read (R70, R428). -/
inductive Sensor where
  | compute (stack quadrant : Nat)
  | bank (stack bank : Nat)
  deriving DecidableEq, Repr

/-- One constructor per row of spec/opcode_table.json. -/
inductive Instr where
  -- majors 0x00 and 0x08 to 0x0C (R203, R204)
  | add (f : ABW) | sub (f : ABW) | and (f : ABW) | or (f : ABW) | xor (f : ABW)
  | andn (f : ABW) | orn (f : ABW) | shl (f : ABW) | shr (f : ABW) | sar (f : ABW)
  | rol (f : ABW) | min (f : ABW) | max (f : ABW) | minu (f : ABW) | maxu (f : ABW)
  | abs (f : AW) | neg (f : AW) | sext (f : ABW)
  | addImm (f : ImmOp) | andImm (f : ImmOp) | orImm (f : ImmOp) | xorImm (f : ImmOp)
  | shlImm (f : ShOp) | shrImm (f : ShOp) | sarImm (f : ShOp) | rolImm (f : ShOp)
  -- majors 0x01, 0x04, 0x02 (R206 to R211)
  | mul (f : ABW) | mulh (f : AB) | mulhu (f : AB) | mad (f : AB)
  | div (f : ABW) | divu (f : ABW) | rem (f : ABW) | remu (f : ABW)
  | mulw (f : AB) | mulwu (f : AB) | madw (f : AB) | madwu (f : AB)
  | clz (f : AW) | popc (f : AW) | brev (f : AW)
  | bfx (f : AB) | bfxu (f : AB) | bfi (f : AB)
  -- majors 0x03, 0x0F, 0x05, 0x0D, 0x0E (R212 to R217)
  | cmp (k : BitVec 3) (c : Cond) (a b : Opd) (w z : Bool)
  | cmpImm (k : BitVec 3) (c : BitVec 3) (a : Opd) (imm : BitVec 12) (z : Bool)
  | sel (f : ABW) (k : BitVec 3)
  | mov (f : AW) | movi (d : Opd) (imm : BitVec 12) (n z : Bool)
  | setix (a : Opd) (z : Bool) | setsix (a : Opd) (z : Bool)
  | setixImm (imm : BitVec 9) (z : Bool) | setsixImm (imm : BitVec 6) (z : Bool)
  | kand (f : K3) | kor (f : K3) | knot (f : K2) | kmov (f : K2)
  | lea (d : Opd) (imm : BitVec 12) (n z : Bool)
  -- majors 0x10 to 0x15 (R218 to R231)
  | fadd (f : AB) | fsub (f : AB) | fmul (f : AB) | ffma (f : AB)
  | fmin (f : AB) | fmax (f : AB) | fabs (f : A1) | fneg (f : A1)
  | fcmp (k : BitVec 3) (c : FCond) (a b : Opd) (z : Bool)
  | dadd (f : AB) | dsub (f : AB) | dmul (f : AB) | dfma (f : AB)
  | dmin (f : AB) | dmax (f : AB) | dabs (f : A1) | dneg (f : A1)
  | dcmp (k : BitVec 3) (c : FCond) (a b : Opd) (z : Bool)
  | hfma2 (f : AB) | bfma2 (f : AB) | hadd2 (f : AB) | badd2 (f : AB) | hmul2 (f : AB) | bmul2 (f : AB)
  | cvt (f : A1) (form : CvtForm) (rnd : Rnd)
  | dot4Sh (f : AB) (sel : BitVec 2) | dot4I8 (f : AB)
  | maxe (f : AB) | scalee (f : AB)
  -- majors 0x16 and 0x17 (R232 to R246)
  | rcp (f : A1) | rsq (f : A1) | sqrt (f : A1) | ex2 (f : A1)
  | lg2 (f : A1) | sinpi (f : A1) | cospi (f : A1) | tanh (f : A1)
  | lpickAt (f : AB) | lpickBack (f : AB) | lpickFwd (f : AB) | lpickMir (f : AB)
  | qswpH (f : A1) | qswpV (f : A1) | qswpD (f : A1)
  | pollAny (f : K2) | pollAll (f : K2) | pollMask (f : DK) | pollCnt (f : DK)
  | red (f : RedF) | segred (f : RedF) (h : BitVec 3) | scan (f : RedF) | wred (f : RedF)
  -- majors 0x18 to 0x1F and 0x2E (R145 to R161)
  | ldB (f : LdF) | ldH (f : LdF) | ldW (f : LdF) | ldD (f : LdF) | ldQ (f : LdF)
  | ldcB (f : LdF) | ldcH (f : LdF) | ldcW (f : LdF) | ldcD (f : LdF) | ldcQ (f : LdF)
  | gathW (f : GathF) | gathD (f : GathF)
  | ldp (f : PadF) | stp (f : PadF)
  | acnt (ac : BitVec 4) (imm : BitVec 12) (z : Bool)
  | wait (ac : BitVec 4) (imm : BitVec 12)
  | waitall
  -- majors 0x20 to 0x26 (R300 to R325)
  | stB (f : StF) | stH (f : StF) | stW (f : StF) | stD (f : StF) | stQ (f : StF)
  | atom (f : ABW) (op : AtomOp)
  | ared (a b : Opd) (op : AredOp) (w z : Bool)
  | cas128 (d a b : Opd) (z : Bool)
  | fence (s : Scope) (z : Bool)
  | collAdd (a : Opd) (z : Bool) | collMin (a : Opd) (z : Bool) | collMax (a : Opd) (z : Bool)
  -- major 0x27 (R163 to R178)
  | tcopy (a : Opd) (z : Bool) | tgath (a : Opd) (z : Bool) | tscat (a : Opd) (z : Bool)
  | tfill (a : Opd) (z : Bool)
  | pres (k : BitVec 3) (a : Opd) (z : Bool)
  | sgjoin (a : Opd) (z : Bool) | sgleave (z : Bool) | sgmap (a : Opd) (z : Bool)
  -- majors 0x28 to 0x2B (R339 to R346, R351)
  | bra (off : BitVec 21) (p : Bool) | call (off : BitVec 21) (p : Bool)
  | rcv (off : BitVec 21) (p z : Bool)
  | brk (f : BrK) | refill (f : BrK)
  | ret | brx (f : IndF) | callx (f : IndF) | lpad (tag : BitVec 8) (z : Bool) | exit
  -- major 0x2C (R375 to R383)
  | barArr (nb : BitVec 6) (z : Bool) | barWait (nb : BitVec 6) | barSync (nb : BitVec 6) (z : Bool)
  | yield (z : Bool) | heart (a : Opd) (z : Bool)
  -- major 0x2D (R400 to R403)
  | trap (code : BitVec 10) (z : Bool) | tret (z : Bool) | skip (z : Bool) | kill (z : Bool)
  | sysr (d : Opd) (code : BitVec 10) (z : Bool) | sysw (a : Opd) (code : BitVec 10) (z : Bool)
  | xrecRead | xinvLeaf (vpn : BitVec 40) | xinvContext | xinvComplete (core team : Nat)
  -- major 0x3F (R50 to R55)
  | advImm (hi : BitVec 20) | advRnd (r : Rnd) | advScope (s : Scope) (o : Order)
  | advCache (h : Hint) | advSched (delay : BitVec 5) (j : Bool) | advTag (tag : BitVec 16)
  -- majors 0x30 to 0x37 (R253 to R274, R281)
  | bfw (a : BitVec 5) (z : Bool)
  | bfs (f : BfF) | bfch (f : BfF)
  | bfp (p : BitVec 6) (z : Bool)
  | bft (d a b : BitVec 5) (xf : XFmt) (set : Bool) (z : Bool)
  | sscan (d a b : BitVec 5) (f16 : Bool) (yf : YFmt) (qc : BitVec 2) (z : Bool)
  | mloop (n : BitVec 2) (a : BitVec 5) (off : BitVec 10) (z : Bool)
  | mmov (d : BitVec 5) (a : BitVec 6) (src : MSrc) (z : Bool)
  | msetsd (n : BitVec 3) (a : BitVec 5) (z : Bool)
  | mbar (nb : BitVec 6) (z : Bool) | mwait (nb : BitVec 6) (z : Bool)
  | mcopy (d a b : BitVec 5) (dir : MDir) (z : Bool)
  | madd (f : MOp) | msub (f : MOp) | mmul (f : MOp) | mand (f : MOp) | mor (f : MOp)
  | mxor (f : MOp) | mshl (f : MOp) | mshr (f : MOp) | mmin (f : MOp) | mmax (f : MOp)
  | mli (d : BitVec 5) (imm : BitVec 12) (z : Bool)
  | mliM (d : BitVec 5) (imm : BitVec 12) (z : Bool)
  | mliT (d : BitVec 5) (imm : BitVec 8) (z : Bool)
  | engineInstructionComplete (core : Nat)
  -- steps of the device (R251, R366, R369, R384)
  | blockDispatch | blockEnd (core : Nat) | arbitration (core dp : Nat) | allowanceReplenish
  -- memory system (R63, R67, R118, R125, R140, R143, R305, R317, R427)
  | loadReply (core team pass lane : Nat) | atomReply (core team id : Nat)
  | windowLdpReply (core team : Nat) | storeQueueEntryLeaves (core team : Nat)
  | homeSliceRequest (core k : Nat) | hbmCompletion (stack tag : Nat) (r : EccResult)
  | tableWalkDone (k : Nat) | atomicLineRecall (core line : Nat)
  | rowDeclaredLasting (a : LastingAt) | remapCopyDone (stack row : Nat)
  -- copy engine (R162 to R169)
  | copyQueueAdmit (core : Nat) | copyStart (core id : Nat) | copyIndexBatch (core id : Nat)
  | copyRowArrives (core id row : Nat)
  -- Longshore (R353, R358)
  | longshoreRequest (die : Nat) | longshoreAnswer (core : Nat)
  -- pre-emption and the watchdog (R406 to R411)
  | preemptForceTimeout (core team : Nat) | blockSave (core : Nat)
  | blockRestore (k : Nat) | watchdogExpiry (core team : Nat) | watchdogSecondExpiry (core team : Nat)
  -- the Harbour's waits and timeouts (R37, R72, R98, R104, R323)
  | partitionChangeEffective (core : Nat) | startTimeout (ctx : Nat) (gen : Word)
  | remoteTimeout (id : Nat) | collRecordTimeout (core team id : Nat)
  | launch (c : Cmd) | launchForward (root : Nat) (packet : List Word)
  | freeRowsApplied | traceTimeTick | d2dReplayLimit | coldReset | warmReset | deviceReady
  -- Harbour commands (R80 to R93)
  | partWrite (c : Cmd) | partRead (c : Cmd) | freeRowsSet (c : Cmd) | freeRowsClear (c : Cmd)
  | errorRead (c : Cmd) | exportWrite (c : Cmd) | exportRead (c : Cmd)
  | groupCreate (c : Cmd) | groupRegistered (group : Nat) (served : Bool) | groupDestroy (c : Cmd)
  | configWrite (c : Cmd) | configRead (c : Cmd) | ctxCreate (c : Cmd) | ctxDestroy (c : Cmd)
  | unassignedCommand (c : Cmd) | messageOutsideSession (c : Cmd)
  -- sessions (R424)
  | sessionNonce (nonce : List Byte) | sessionGrant (id : Nat) (g : Grant) (verified : Bool)
  -- launches across devices (R104, R363)
  | armed (ctx dev : Nat) (gen : Word) | participantRefusal (ctx dev : Nat) (gen : Word) (status : Nat)
  | start (ctx : Nat) (gen : Word) | abort (ctx : Nat) (gen : Word)
  | killReport (ctx : Nat) (gen : Word) (words : List Word)
  | endMessage (ctx dev : Nat) (gen : Word) (killed : Nat)
  -- fabric (R96, R98, R323, R373)
  | remoteRequest (r : RemoteIn) | remoteReply (id : Nat) (a : RemoteAns)
  | ownerUnreachable (dev : Nat) | ownerReachable (dev : Nat)
  | collRecord (core team id : Nat) (a : CollAns)
  | gridBarrierMessage (ctx : Nat) (gen : Word) (nb : Nat)
  -- firmware, integrity, links (R70, R73, R78, R406, R428)
  | preemptRequest (core : Nat) | refresh (stack bank : Nat) | patrolScrub (sector : Nat) (r : EccResult)
  | temperatureChange (s : Sensor) (celsius : Int)
  | portLinkLoss (port : Nat) | portLinkReturn (port : Nat)
  deriving DecidableEq, Repr

end Sys2Proof
end

