-- ==== Sys2Proof/Decode.lean ====
section
/-! DEFINITION. The decoder of instruction words (Tables 3.1 to 3.11, 14.2), total, rejecting by
name, and after it the encoder written from the same tables. -/

namespace Sys2Proof

/-- Why a word is no instruction: each of these raises Illegal Instruction at the fetch (R57). -/
inductive Reject where
  | short             -- fewer than four bytes
  | unassignedMajor   -- a major Table 3.11 marks unassigned
  | unassignedCode    -- an unassigned FN, K, D, A, SZ, KIND or CTL value
  | unusedField       -- a nonzero field the instruction does not use (R42)
  | mustStop          -- Z = 0 where the class requires Z = 1 (R48)
  | reservedValue     -- a reserved rounding, scope, order or hint value
  deriving DecidableEq, Repr

/-! Bit fields of a word, read as a number. -/

/-- Bits [lo + len - 1 : lo] of w. -/
def bits (w lo len : Nat) : Nat := w / 2 ^ lo % 2 ^ len

/-- Bit [lo] of w. -/
def bit (w lo : Nat) : Bool := bits w lo 1 == 1

/-- A Bool as a number. -/
def bnum (b : Bool) : Nat := if b then 1 else 0

/-- A register field (Table 1.1). -/
def Opd.ofNat (x : Nat) : Opd :=
  if h : x % 64 < 48 then .v ⟨x % 64, h⟩
  else if h2 : x % 64 - 48 < 8 then .s ⟨x % 64 - 48, h2⟩
  else if h3 : x % 64 - 56 < 7 then .e ⟨x % 64 - 56, h3⟩
  else .zero

/-- The field value of a register operand (Table 1.1). -/
def Opd.toNat : Opd → Nat
  | .v n => n
  | .s n => 48 + n
  | .e n => 56 + n
  | .zero => 63

/-- Rounding codes (Table 11.9). -/
def Rnd.ofCode? : Nat → Option Rnd
  | 0 => some .rn | 1 => some .rz | 2 => some .ru | 3 => some .rd | 4 => some .ro | _ => none

def Rnd.code : Rnd → Nat
  | .rn => 0 | .rz => 1 | .ru => 2 | .rd => 3 | .ro => 4

/-- Conditions of major 0x03 (Table 3.11). -/
def Cond.ofCode? : Nat → Option Cond
  | 0 => some .eq | 1 => some .ne | 2 => some .lt | 3 => some .le | 4 => some .gt
  | 5 => some .ge | 6 => some .ltu | 7 => some .leu | 8 => some .gtu | 9 => some .geu | _ => none

def Cond.code : Cond → Nat
  | .eq => 0 | .ne => 1 | .lt => 2 | .le => 3 | .gt => 4
  | .ge => 5 | .ltu => 6 | .leu => 7 | .gtu => 8 | .geu => 9

/-- Conditions of FCMP and DCMP: FN 8 to 14. -/
def FCond.ofCode? : Nat → Option FCond
  | 0 => some .eq | 1 => some .ne | 2 => some .lt | 3 => some .le | 4 => some .gt
  | 5 => some .ge | 6 => some .un | _ => none

def FCond.code : FCond → Nat
  | .eq => 0 | .ne => 1 | .lt => 2 | .le => 3 | .gt => 4 | .ge => 5 | .un => 6

/-- CVT forms (Table 12.6). -/
def CvtForm.ofCode? : Nat → Option CvtForm
  | 0 => some .f16f32 | 1 => some .bf16f32 | 2 => some .shelf8f32 | 3 => some .s32f32
  | 4 => some .u32f32 | 5 => some .f32f64 | 6 => some .s32f64 | 7 => some .s64f64
  | 8 => some .f32s32 | 9 => some .f32u32 | 10 => some .f64s64 | 11 => some .f32f16
  | 12 => some .f32bf16 | 13 => some .f32shelf8 | 14 => some .f64f32 | 15 => some .f64s32
  | _ => none

def CvtForm.code : CvtForm → Nat
  | .f16f32 => 0 | .bf16f32 => 1 | .shelf8f32 => 2 | .s32f32 => 3
  | .u32f32 => 4 | .f32f64 => 5 | .s32f64 => 6 | .s64f64 => 7
  | .f32s32 => 8 | .f32u32 => 9 | .f64s64 => 10 | .f32f16 => 11
  | .f32bf16 => 12 | .f32shelf8 => 13 | .f64f32 => 14 | .f64s32 => 15

/-- Reduction codes (R236). -/
def RedOp.ofCode : Nat → RedOp
  | 0 => .add | 1 => .min | 2 => .max | 3 => .minu | 4 => .maxu | 5 => .fadd | 6 => .fmin | _ => .fmax

def RedOp.code : RedOp → Nat
  | .add => 0 | .min => 1 | .max => 2 | .minu => 3 | .maxu => 4 | .fadd => 5 | .fmin => 6 | .fmax => 7

/-- Atomic operation codes (Table 16.4). -/
def AtomOp.ofCode : Nat → AtomOp
  | 0 => .add | 1 => .min | 2 => .max | 3 => .and | 4 => .or | 5 => .xor | 6 => .xchg | _ => .cas

def AtomOp.code : AtomOp → Nat
  | .add => 0 | .min => 1 | .max => 2 | .and => 3 | .or => 4 | .xor => 5 | .xchg => 6 | .cas => 7

def AredOp.ofCode? : Nat → Option AredOp
  | 0 => some .add | 1 => some .min | 2 => some .max | 3 => some .and | 4 => some .or
  | 5 => some .xor | _ => none

def AredOp.code : AredOp → Nat
  | .add => 0 | .min => 1 | .max => 2 | .and => 3 | .or => 4 | .xor => 5

/-- Scope codes (Tables 3.10 and 16.1). -/
def Scope.ofCode? : Nat → Option Scope
  | 0 => some .core | 1 => some .die | 2 => some .device | 3 => some .domain | 4 => some .system
  | _ => none

def Scope.code : Scope → Nat
  | .core => 0 | .die => 1 | .device => 2 | .domain => 3 | .system => 4

def Order.ofCode : Nat → Order
  | 0 => .none | 1 => .acquire | 2 => .release | _ => .acqrel

def Order.code : Order → Nat
  | .none => 0 | .acquire => 1 | .release => 2 | .acqrel => 3

def Hint.ofCode? : Nat → Option Hint
  | 0 => some .normal | 1 => some .stream | 2 => some .keep | 3 => some .bypass | 4 => some .last
  | _ => none

def Hint.code : Hint → Nat
  | .normal => 0 | .stream => 1 | .keep => 2 | .bypass => 3 | .last => 4

/-- Access-size codes (R159). -/
def Size.ofCode? : Nat → Option Size
  | 0 => some .b | 1 => some .h | 2 => some .w | 3 => some .d | 4 => some .q | _ => none

def Size.code : Size → Nat
  | .b => 0 | .h => 1 | .w => 2 | .d => 3 | .q => 4

def XFmt.ofCode : Nat → XFmt
  | 0 => .bf16 | 1 => .f16 | 2 => .shelf8 | _ => .i8

def XFmt.code : XFmt → Nat
  | .bf16 => 0 | .f16 => 1 | .shelf8 => 2 | .i8 => 3

def YFmt.ofCode : Nat → YFmt
  | 0 => .f32 | 1 => .bf16 | 2 => .f16 | _ => .acc

def YFmt.code : YFmt → Nat
  | .f32 => 0 | .bf16 => 1 | .f16 => 2 | .acc => 3

def MDir.ofCode : Nat → MDir
  | 0 => .sa | 1 => .as | 2 => .ss | _ => .aa

def MDir.code : MDir → Nat
  | .sa => 0 | .as => 1 | .ss => 2 | .aa => 3

def MSrc.ofCode : Nat → MSrc
  | 0 => .m | 1 => .sd | 2 => .lc | _ => .eng

def MSrc.code : MSrc → Nat
  | .m => 0 | .sd => 1 | .lc => 2 | .eng => 3

/-! Fields of the formats. -/

def fOp (w : Nat) : Nat := bits w 26 6
def fD (w : Nat) : Opd := Opd.ofNat (bits w 20 6)
def fA (w : Nat) : Opd := Opd.ofNat (bits w 14 6)
def fB (w : Nat) : Opd := Opd.ofNat (bits w 8 6)
def fFn (w : Nat) : Nat := bits w 3 5
def fZ (w : Nat) : Bool := bit w 0

def ABW.read (w : Nat) : ABW := ⟨fD w, fA w, fB w, bit w 2, bit w 1, fZ w⟩
def AW.read (w : Nat) : AW := ⟨fD w, fA w, bit w 2, bit w 1, fZ w⟩
def AB.read (w : Nat) : AB := ⟨fD w, fA w, fB w, bit w 2, fZ w⟩
def A1.read (w : Nat) : A1 := ⟨fD w, fA w, bit w 2, fZ w⟩
def ImmOp.read (w : Nat) : ImmOp := ⟨fD w, fA w, BitVec.ofNat 12 (bits w 2 12), bit w 1, fZ w⟩
def ShOp.read (w : Nat) : ShOp := ⟨fD w, fA w, BitVec.ofNat 5 (bits w 2 5), bit w 1, fZ w⟩
def k3 (w lo : Nat) : BitVec 3 := BitVec.ofNat 3 (bits w lo 3)
def m5 (w lo : Nat) : BitVec 5 := BitVec.ofNat 5 (bits w lo 5)
def LdF.read (w : Nat) : LdF :=
  ⟨fD w, fA w, BitVec.ofNat 4 (bits w 10 4), BitVec.ofNat 8 (bits w 2 8), fZ w⟩
def StF.read (w : Nat) : StF := ⟨fD w, fA w, BitVec.ofNat 8 (bits w 2 8), bit w 1, fZ w⟩
def BrK.read (w : Nat) : BrK := ⟨BitVec.ofNat 21 (bits w 5 21), k3 w 2, bit w 1⟩
def MOp.read (w : Nat) : MOp := ⟨m5 w 20, m5 w 14, BitVec.ofNat 6 (bits w 8 6), bit w 1, fZ w⟩

/-- The result when a condition on the word holds, else a rejection. -/
def req (c : Bool) (r : Reject) (x : Except Reject Instr) : Except Reject Instr :=
  if c then x else .error r

/-- A value that a table may leave unassigned. -/
def need {α : Type} (o : Option α) (r : Reject) (f : α → Except Reject Instr) : Except Reject Instr :=
  match o with
  | some x => f x
  | none => .error r

/-! Majors 0x00 to 0x05. -/

def dec00 (w : Nat) : Except Reject Instr :=
  let f := ABW.read w
  match fFn w with
  | 0 => .ok (.add f) | 1 => .ok (.sub f) | 2 => .ok (.and f) | 3 => .ok (.or f)
  | 4 => .ok (.xor f) | 5 => .ok (.andn f) | 6 => .ok (.orn f) | 7 => .ok (.shl f)
  | 8 => .ok (.shr f) | 9 => .ok (.sar f) | 10 => .ok (.rol f) | 11 => .ok (.min f)
  | 12 => .ok (.max f) | 13 => .ok (.minu f) | 14 => .ok (.maxu f)
  | 15 => req (bits w 8 6 == 0) .unusedField (.ok (.abs (AW.read w)))
  | 16 => req (bits w 8 6 == 0) .unusedField (.ok (.neg (AW.read w)))
  | 17 => .ok (.sext f)
  | _ => .error .unassignedCode

def dec01 (w : Nat) : Except Reject Instr :=
  let f := ABW.read w
  let g := AB.read w
  match fFn w with
  | 0 => .ok (.mul f)
  | 1 => req (!bit w 1) .unusedField (.ok (.mulh g))
  | 2 => req (!bit w 1) .unusedField (.ok (.mulhu g))
  | 3 => req (!bit w 1) .unusedField (.ok (.mad g))
  | 4 => .ok (.div f) | 5 => .ok (.divu f) | 6 => .ok (.rem f) | 7 => .ok (.remu f)
  | _ => .error .unassignedCode

def dec02 (w : Nat) : Except Reject Instr :=
  let f := AW.read w
  let g := AB.read w
  match fFn w with
  | 0 => req (bits w 8 6 == 0) .unusedField (.ok (.clz f))
  | 1 => req (bits w 8 6 == 0) .unusedField (.ok (.popc f))
  | 2 => req (bits w 8 6 == 0) .unusedField (.ok (.brev f))
  | 3 => req (!bit w 1) .unusedField (.ok (.bfx g))
  | 4 => req (!bit w 1) .unusedField (.ok (.bfxu g))
  | 5 => req (!bit w 1) .unusedField (.ok (.bfi g))
  | _ => .error .unassignedCode

def dec03 (w : Nat) : Except Reject Instr :=
  if bits w 6 2 == 2 then .ok (.sel (ABW.read w) (k3 w 3))
  else
    need (Cond.ofCode? (fFn w)) .unassignedCode fun c =>
      req (bits w 23 3 == 0 && !bit w 2) .unusedField
        (.ok (.cmp (k3 w 20) c (fA w) (fB w) (bit w 1) (fZ w)))

def dec04 (w : Nat) : Except Reject Instr :=
  let g := AB.read w
  req (bit w 1) .unusedField <|
  match fFn w with
  | 0 => .ok (.mulw g) | 1 => .ok (.mulwu g) | 2 => .ok (.madw g) | 3 => .ok (.madwu g)
  | _ => .error .unassignedCode

def dec05 (w : Nat) : Except Reject Instr :=
  let noDB := bits w 20 6 == 0 && bits w 8 6 == 0 && !bit w 2 && !bit w 1
  let noNW := !bit w 2 && !bit w 1
  let kD := bits w 23 3 == 0 && bits w 17 3 == 0 && noNW
  match fFn w with
  | 0 => req (bits w 8 6 == 0) .unusedField (.ok (.mov (AW.read w)))
  | 1 => req noDB .unusedField (.ok (.setix (fA w) (fZ w)))
  | 2 => req noDB .unusedField (.ok (.setsix (fA w) (fZ w)))
  | 3 => req (kD && bits w 11 3 == 0) .unusedField (.ok (.kand ⟨k3 w 20, k3 w 14, k3 w 8, fZ w⟩))
  | 4 => req (kD && bits w 11 3 == 0) .unusedField (.ok (.kor ⟨k3 w 20, k3 w 14, k3 w 8, fZ w⟩))
  | 5 => req (kD && bits w 8 6 == 0) .unusedField (.ok (.knot ⟨k3 w 20, k3 w 14, fZ w⟩))
  | 6 => req (kD && bits w 8 6 == 0) .unusedField (.ok (.kmov ⟨k3 w 20, k3 w 14, fZ w⟩))
  | _ => .error .unassignedCode

/-! Immediate majors 0x0C to 0x0F. -/

def dec0C (w : Nat) : Except Reject Instr :=
  let f := ShOp.read w
  req (bits w 7 5 == 0) .unusedField <|
  match bits w 12 2 with
  | 0 => .ok (.shlImm f) | 1 => .ok (.shrImm f) | 2 => .ok (.sarImm f) | _ => .ok (.rolImm f)

def dec0D (w : Nat) : Except Reject Instr :=
  match bits w 14 6 with
  | 0 => .ok (.movi (fD w) (BitVec.ofNat 12 (bits w 2 12)) (bit w 1) (fZ w))
  | 1 => req (bits w 20 6 == 0 && bits w 11 3 == 0 && !bit w 1) .unusedField
      (.ok (.setixImm (BitVec.ofNat 9 (bits w 2 9)) (fZ w)))
  | 2 => req (bits w 20 6 == 0 && bits w 8 6 == 0 && !bit w 1) .unusedField
      (.ok (.setsixImm (BitVec.ofNat 6 (bits w 2 6)) (fZ w)))
  | _ => .error .unassignedCode

def dec0E (w : Nat) : Except Reject Instr :=
  req (bits w 14 6 == 0) .unusedField
    (.ok (.lea (fD w) (BitVec.ofNat 12 (bits w 2 12)) (bit w 1) (fZ w)))

def dec0F (w : Nat) : Except Reject Instr :=
  req (!bit w 1) .unusedField
    (.ok (.cmpImm (k3 w 20) (k3 w 23) (fA w) (BitVec.ofNat 12 (bits w 2 12)) (fZ w)))

/-! Floating point, conversions, SFU and cross-lane, majors 0x10 to 0x17. -/

def decFcmp (w : Nat) (f : FCond → Instr) : Except Reject Instr :=
  need (FCond.ofCode? (fFn w - 8)) .unassignedCode fun c =>
    req (bits w 23 3 == 0 && !bit w 2) .unusedField (.ok (f c))

def dec10 (w : Nat) : Except Reject Instr :=
  let g := AB.read w
  let h := A1.read w
  req (!bit w 1) .unusedField <|
  match fFn w with
  | 0 => .ok (.fadd g) | 1 => .ok (.fsub g) | 2 => .ok (.fmul g) | 3 => .ok (.ffma g)
  | 4 => .ok (.fmin g) | 5 => .ok (.fmax g)
  | 6 => req (bits w 8 6 == 0) .unusedField (.ok (.fabs h))
  | 7 => req (bits w 8 6 == 0) .unusedField (.ok (.fneg h))
  | _ => decFcmp w fun c => .fcmp (k3 w 20) c (fA w) (fB w) (fZ w)

def dec11 (w : Nat) : Except Reject Instr :=
  let g := AB.read w
  let h := A1.read w
  req (bit w 1) .unusedField <|
  match fFn w with
  | 0 => .ok (.dadd g) | 1 => .ok (.dsub g) | 2 => .ok (.dmul g) | 3 => .ok (.dfma g)
  | 4 => .ok (.dmin g) | 5 => .ok (.dmax g)
  | 6 => req (bits w 8 6 == 0) .unusedField (.ok (.dabs h))
  | 7 => req (bits w 8 6 == 0) .unusedField (.ok (.dneg h))
  | _ => decFcmp w fun c => .dcmp (k3 w 20) c (fA w) (fB w) (fZ w)

def dec12 (w : Nat) : Except Reject Instr :=
  let g := AB.read w
  req (!bit w 1) .unusedField <|
  match fFn w with
  | 0 => .ok (.hfma2 g) | 1 => .ok (.bfma2 g) | 2 => .ok (.hadd2 g)
  | 3 => .ok (.badd2 g) | 4 => .ok (.hmul2 g) | 5 => .ok (.bmul2 g)
  | _ => .error .unassignedCode

/-- CVT: the exact forms, FN 11 to 15, require a zero rounding field (R225). -/
def dec13 (w : Nat) : Except Reject Instr :=
  need (CvtForm.ofCode? (fFn w)) .unassignedCode fun f =>
    need (Rnd.ofCode? (bits w 8 3)) .reservedValue fun r =>
      req (!bit w 1 && bits w 11 3 == 0 && (fFn w < 11 || bits w 8 3 == 0)) .unusedField
        (.ok (.cvt (A1.read w) f r))

def dec14 (w : Nat) : Except Reject Instr :=
  req (!bit w 1) .unusedField <|
  if bits w 5 3 == 0 then .ok (.dot4Sh (AB.read w) (BitVec.ofNat 2 (bits w 3 2)))
  else if fFn w == 4 then .ok (.dot4I8 (AB.read w))
  else .error .unassignedCode

def dec15 (w : Nat) : Except Reject Instr :=
  req (!bit w 1) .unusedField <|
  match fFn w with
  | 0 => .ok (.maxe (AB.read w))
  | 1 => .ok (.scalee (AB.read w))
  | _ => .error .unassignedCode

def dec16 (w : Nat) : Except Reject Instr :=
  let h := A1.read w
  req (!bit w 1 && bits w 8 6 == 0) .unusedField <|
  match fFn w with
  | 0 => .ok (.rcp h) | 1 => .ok (.rsq h) | 2 => .ok (.sqrt h) | 3 => .ok (.ex2 h)
  | 4 => .ok (.lg2 h) | 5 => .ok (.sinpi h) | 6 => .ok (.cospi h) | 7 => .ok (.tanh h)
  | _ => .error .unassignedCode

def RedF.read (w : Nat) : RedF := ⟨fD w, fA w, RedOp.ofCode (bits w 8 3), bit w 2, fZ w⟩

def dec17 (w : Nat) : Except Reject Instr :=
  let g := AB.read w
  let h := A1.read w
  let noB := bits w 8 6 == 0
  let kk := bits w 23 3 == 0 && bits w 17 3 == 0 && noB && !bit w 2
  let k2 : K2 := ⟨k3 w 20, k3 w 14, fZ w⟩
  let dk : DK := ⟨fD w, k3 w 14, bit w 2, fZ w⟩
  let dkOk := bits w 17 3 == 0 && noB
  let redOk := bits w 11 3 == 0
  req (!bit w 1) .unusedField <|
  match fFn w with
  | 0 => .ok (.lpickAt g) | 1 => .ok (.lpickBack g) | 2 => .ok (.lpickFwd g) | 3 => .ok (.lpickMir g)
  | 4 => req noB .unusedField (.ok (.qswpH h))
  | 5 => req noB .unusedField (.ok (.qswpV h))
  | 6 => req noB .unusedField (.ok (.qswpD h))
  | 7 => req kk .unusedField (.ok (.pollAny k2))
  | 8 => req kk .unusedField (.ok (.pollAll k2))
  | 9 => req dkOk .unusedField (.ok (.pollMask dk))
  | 10 => req redOk .unusedField (.ok (.red (RedF.read w)))
  | 11 => .ok (.segred (RedF.read w) (k3 w 11))
  | 12 => req redOk .unusedField (.ok (.scan (RedF.read w)))
  | 13 => req redOk .unusedField (.ok (.wred (RedF.read w)))
  | 14 => req dkOk .unusedField (.ok (.pollCnt dk))
  | _ => .error .unassignedCode

/-! Memory, majors 0x18 to 0x27. -/

def decLd (w : Nat) (ld ldc : LdF → Instr) : Except Reject Instr :=
  .ok (if bit w 1 then ldc (LdF.read w) else ld (LdF.read w))

def decPad (w : Nat) (f : PadF → Instr) : Except Reject Instr :=
  need (Size.ofCode? (bits w 10 4)) .unassignedCode fun sz =>
    req (!bit w 1) .unusedField (.ok (f ⟨fD w, fA w, sz, BitVec.ofNat 8 (bits w 2 8), fZ w⟩))

def dec1F (w : Nat) : Except Reject Instr :=
  let f : GathF := ⟨fD w, fA w, fB w, BitVec.ofNat 4 (bits w 3 4), fZ w⟩
  req (bits w 1 2 == 0) .unusedField (.ok (if bit w 7 then .gathD f else .gathW f))

def decSt (w : Nat) (f : StF → Instr) : Except Reject Instr :=
  req (bits w 10 4 == 0) .unusedField (.ok (f (StF.read w)))

def dec25 (w : Nat) : Except Reject Instr :=
  req (bits w 7 1 == 0 && !bit w 2) .unusedField <|
  if bit w 6 then
    need (AredOp.ofCode? (bits w 3 3)) .unassignedCode fun o =>
      req (bits w 20 6 == 0) .unusedField (.ok (.ared (fA w) (fB w) o (bit w 1) (fZ w)))
  else .ok (.atom ⟨fD w, fA w, fB w, false, bit w 1, fZ w⟩ (AtomOp.ofCode (bits w 3 3)))

def dec26 (w : Nat) : Except Reject Instr :=
  let coll := bits w 20 6 == 0 && bits w 8 6 == 0
  req (bits w 1 2 == 0) .unusedField <|
  match fFn w with
  | 0 => .ok (.cas128 (fD w) (fA w) (fB w) (fZ w))
  | 1 => need (Scope.ofCode? (bits w 20 3)) .unassignedCode fun s =>
      req (bits w 23 3 == 0 && bits w 8 12 == 0) .unusedField (.ok (.fence s (fZ w)))
  | 2 => req coll .unusedField (.ok (.collAdd (fA w) (fZ w)))
  | 3 => req coll .unusedField (.ok (.collMin (fA w) (fZ w)))
  | 4 => req coll .unusedField (.ok (.collMax (fA w) (fZ w)))
  | _ => .error .unassignedCode

def dec27 (w : Nat) : Except Reject Instr :=
  let onlyA := bits w 20 6 == 0 && bits w 8 6 == 0
  let a := fA w
  let z := fZ w
  req (bits w 1 2 == 0) .unusedField <|
  match fFn w with
  | 0 => req onlyA .unusedField (.ok (.tcopy a z))
  | 1 => req onlyA .unusedField (.ok (.tgath a z))
  | 2 => req onlyA .unusedField (.ok (.tscat a z))
  | 3 => req onlyA .unusedField (.ok (.tfill a z))
  | 4 => req (bits w 23 3 == 0 && bits w 8 6 == 0) .unusedField (.ok (.pres (k3 w 20) a z))
  | 8 => req onlyA .unusedField (.ok (.sgjoin a z))
  | 9 => req (onlyA && bits w 14 6 == 0) .unusedField (.ok (.sgleave z))
  | 10 => req onlyA .unusedField (.ok (.sgmap a z))
  | _ => .error .unassignedCode

/-! Control, majors 0x28 to 0x2E. -/

def dec28 (w : Nat) : Except Reject Instr :=
  let off := BitVec.ofNat 21 (bits w 5 21)
  match bits w 2 3 with
  | 0 => req (fZ w) .mustStop (.ok (.bra off (bit w 1)))
  | 1 => req (fZ w) .mustStop (.ok (.call off (bit w 1)))
  | 2 => .ok (.rcv off (bit w 1) (fZ w))
  | _ => .error .unassignedCode

def dec2B (w : Nat) : Except Reject Instr :=
  let tag := BitVec.ofNat 8 (bits w 8 6 + 64 * bits w 1 2)
  let noTag := bits w 8 6 == 0 && bits w 1 2 == 0
  let noA := bits w 14 6 == 0
  req (bits w 20 6 == 0) .unusedField <|
  match fFn w with
  | 0 => req (noA && noTag) .unusedField (req (fZ w) .mustStop (.ok .ret))
  | 1 => req (fZ w) .mustStop (.ok (.brx ⟨fA w, tag⟩))
  | 2 => req (fZ w) .mustStop (.ok (.callx ⟨fA w, tag⟩))
  | 3 => req noA .unusedField (.ok (.lpad tag (fZ w)))
  | 4 => req (noA && noTag) .unusedField (req (fZ w) .mustStop (.ok .exit))
  | _ => .error .unassignedCode

def dec2C (w : Nat) : Except Reject Instr :=
  let nb := BitVec.ofNat 6 (bits w 2 6)
  let noA := bits w 14 6 == 0 && bits w 8 6 == 0
  req (!bit w 1) .unusedField <|
  match bits w 20 6 with
  | 0 => req noA .unusedField (.ok (.barArr nb (fZ w)))
  | 1 => req noA .unusedField (req (fZ w) .mustStop (.ok (.barWait nb)))
  | 2 => req noA .unusedField (.ok (.barSync nb (fZ w)))
  | 3 => req (bits w 14 6 == 0 && bits w 2 12 == 0) .unusedField (.ok (.yield (fZ w)))
  | 4 => req (bits w 2 12 == 0) .unusedField (.ok (.heart (fA w) (fZ w)))
  | _ => .error .unassignedCode

def dec2D (w : Nat) : Except Reject Instr :=
  let code := BitVec.ofNat 10 (bits w 4 10)
  let noD := bits w 20 6 == 0
  let noA := bits w 14 6 == 0
  let noC := bits w 4 10 == 0
  match bits w 1 3 with
  | 0 => req (noD && noA) .unusedField (.ok (.trap code (fZ w)))
  | 1 => req (noD && noA && noC) .unusedField (.ok (.tret (fZ w)))
  | 2 => req (noD && noA && noC) .unusedField (.ok (.skip (fZ w)))
  | 3 => req (noD && noA && noC) .unusedField (.ok (.kill (fZ w)))
  | 4 => req noA .unusedField (.ok (.sysr (fD w) code (fZ w)))
  | 5 => req noD .unusedField (.ok (.sysw (fA w) code (fZ w)))
  | _ => .error .unassignedCode

def dec2E (w : Nat) : Except Reject Instr :=
  let ac := BitVec.ofNat 4 (bits w 20 4)
  let imm := BitVec.ofNat 12 (bits w 2 12)
  req (bits w 14 6 == 0 && !bit w 1) .unusedField <|
  match bits w 24 2 with
  | 0 => req (fZ w) .mustStop (.ok (.wait ac imm))
  | 1 => .ok (.acnt ac imm (fZ w))
  | 2 => req (bits w 20 4 == 0 && bits w 2 12 == 0) .unusedField (req (fZ w) .mustStop (.ok .waitall))
  | _ => .error .unassignedCode

/-! Matrix stream, majors 0x30 to 0x37. An m field of 32 to 63 is Illegal Instruction (R253). -/

def BfF.read (w : Nat) (r : Rnd) : BfF :=
  ⟨m5 w 20, m5 w 14, BitVec.ofNat 6 (bits w 8 6), XFmt.ofCode (bits w 6 2), YFmt.ofCode (bits w 4 2), r, fZ w⟩

def mDA (w : Nat) : Bool := bits w 25 1 == 0 && bits w 19 1 == 0

def decBf (w : Nat) (f : BfF → Instr) : Except Reject Instr :=
  need (Rnd.ofCode? (bits w 1 3)) .reservedValue fun r =>
    req (mDA w) .unassignedCode (.ok (f (BfF.read w r)))

def dec34 (w : Nat) : Except Reject Instr :=
  req (mDA w && bits w 13 1 == 0 && bits w 5 1 == 0) .unassignedCode <|
  req (bits w 1 3 == 0) .unusedField
    (.ok (.bft (m5 w 20) (m5 w 14) (m5 w 8) (XFmt.ofCode (bits w 6 2)) (bit w 4) (fZ w)))

def dec35 (w : Nat) : Except Reject Instr :=
  req (mDA w && bits w 13 1 == 0 && bits w 7 1 == 0 && bits w 4 2 != 3) .unassignedCode <|
  req (!bit w 1) .unusedField
    (.ok (.sscan (m5 w 20) (m5 w 14) (m5 w 8) (bit w 6) (YFmt.ofCode (bits w 4 2))
      (BitVec.ofNat 2 (bits w 2 2)) (fZ w)))

def dec36 (w : Nat) : Except Reject Instr :=
  let nb := BitVec.ofNat 6 (bits w 14 6)
  let noDB := bits w 20 6 == 0 && bits w 8 6 == 0 && bits w 1 4 == 0
  match bits w 5 3 with
  | 0 => req (bits w 22 4 == 0 && bits w 19 1 == 0) .unusedField
      (.ok (.mloop (BitVec.ofNat 2 (bits w 20 2)) (m5 w 14)
        (BitVec.ofNat 10 (bits w 1 4 + 16 * bits w 8 6)) (fZ w)))
  | 1 => req (bits w 25 1 == 0 && bits w 8 6 == 0 && bits w 3 2 == 0) .unusedField
      (.ok (.mmov (m5 w 20) (BitVec.ofNat 6 (bits w 14 6)) (MSrc.ofCode (bits w 1 2)) (fZ w)))
  | 2 => req (bits w 23 3 == 0 && bits w 19 1 == 0 && bits w 8 6 == 0 && bits w 1 4 == 0) .unusedField
      (.ok (.msetsd (k3 w 20) (m5 w 14) (fZ w)))
  | 3 => req noDB .unusedField (.ok (.mbar nb (fZ w)))
  | 4 => req noDB .unusedField (.ok (.mwait nb (fZ w)))
  | 5 => req (mDA w && bits w 13 1 == 0 && bits w 3 2 == 0) .unusedField
      (.ok (.mcopy (m5 w 20) (m5 w 14) (m5 w 8) (MDir.ofCode (bits w 1 2)) (fZ w)))
  | _ => .error .unassignedCode

def dec37 (w : Nat) : Except Reject Instr :=
  let f := MOp.read w
  let imm := BitVec.ofNat 12 (bits w 8 12)
  let go (i : Instr) : Except Reject Instr :=
    req (mDA w && bits w 2 2 == 0 && (bit w 1 || bits w 13 1 == 0)) .unusedField (.ok i)
  match bits w 4 4 with
  | 0 => go (.madd f) | 1 => go (.msub f) | 2 => go (.mmul f) | 3 => go (.mand f) | 4 => go (.mor f)
  | 5 => go (.mxor f) | 6 => go (.mshl f) | 7 => go (.mshr f) | 8 => go (.mmin f) | 9 => go (.mmax f)
  | 10 =>
    req (bits w 25 1 == 0) .unassignedCode <|
    match bits w 1 3 with
    | 4 => .ok (.mli (m5 w 20) imm (fZ w))
    | 1 => .ok (.mliM (m5 w 20) imm (fZ w))
    | 2 => req (bits w 16 4 == 0) .unusedField (.ok (.mliT (m5 w 20) (BitVec.ofNat 8 (bits w 8 8)) (fZ w)))
    | _ => .error .unassignedCode
  | _ => .error .unassignedCode

/-! Adverbs, major 0x3F: Z = 1 is Illegal Instruction (R48). -/

def dec3F (w : Nat) : Except Reject Instr :=
  req (!fZ w) .unusedField <|
  match bits w 22 4 with
  | 0 => req (!bit w 1) .unusedField (.ok (.advImm (BitVec.ofNat 20 (bits w 2 20))))
  | 1 => need (Rnd.ofCode? (bits w 1 3)) .reservedValue fun r =>
      req (bits w 4 18 == 0) .unusedField (.ok (.advRnd r))
  | 2 => need (Scope.ofCode? (bits w 1 3)) .reservedValue fun s =>
      req (bits w 6 16 == 0) .unusedField (.ok (.advScope s (Order.ofCode (bits w 4 2))))
  | 3 => need (Hint.ofCode? (bits w 1 3)) .reservedValue fun h =>
      req (bits w 4 18 == 0) .unusedField (.ok (.advCache h))
  | 4 => req (bits w 7 15 == 0) .unusedField
      (.ok (.advSched (BitVec.ofNat 5 (bits w 1 5)) (bit w 6)))
  | 5 => req (bits w 17 5 == 0) .unusedField (.ok (.advTag (BitVec.ofNat 16 (bits w 1 16))))
  | _ => .error .unassignedCode

/-- The instruction of a word, by its major opcode (Table 3.11). -/
def decodeNat (w : Nat) : Except Reject Instr :=
  match fOp w with
  | 0x00 => dec00 w | 0x01 => dec01 w | 0x02 => dec02 w | 0x03 => dec03 w
  | 0x04 => dec04 w | 0x05 => dec05 w
  | 0x08 => .ok (.addImm (ImmOp.read w)) | 0x09 => .ok (.andImm (ImmOp.read w))
  | 0x0A => .ok (.orImm (ImmOp.read w)) | 0x0B => .ok (.xorImm (ImmOp.read w))
  | 0x0C => dec0C w | 0x0D => dec0D w | 0x0E => dec0E w | 0x0F => dec0F w
  | 0x10 => dec10 w | 0x11 => dec11 w | 0x12 => dec12 w | 0x13 => dec13 w
  | 0x14 => dec14 w | 0x15 => dec15 w | 0x16 => dec16 w | 0x17 => dec17 w
  | 0x18 => decLd w .ldB .ldcB | 0x19 => decLd w .ldH .ldcH | 0x1A => decLd w .ldW .ldcW
  | 0x1B => decLd w .ldD .ldcD | 0x1C => decLd w .ldQ .ldcQ
  | 0x1D => decPad w .ldp | 0x1E => decPad w .stp | 0x1F => dec1F w
  | 0x20 => decSt w .stB | 0x21 => decSt w .stH | 0x22 => decSt w .stW
  | 0x23 => decSt w .stD | 0x24 => decSt w .stQ
  | 0x25 => dec25 w | 0x26 => dec26 w | 0x27 => dec27 w | 0x28 => dec28 w
  | 0x29 => req (fZ w) .mustStop (.ok (.brk (BrK.read w)))
  | 0x2A => req (fZ w) .mustStop (.ok (.refill (BrK.read w)))
  | 0x2B => dec2B w | 0x2C => dec2C w | 0x2D => dec2D w | 0x2E => dec2E w
  | 0x30 => req (bits w 20 6 == 0 && bits w 8 6 == 0 && bits w 1 7 == 0 && bits w 19 1 == 0) .unusedField
      (.ok (.bfw (m5 w 14) (fZ w)))
  | 0x31 => req (bits w 12 2 == 0) .unusedField (decBf w .bfs)
  | 0x32 => decBf w .bfch
  | 0x33 => req (bits w 14 12 == 0 && bits w 1 7 == 0) .unusedField
      (.ok (.bfp (BitVec.ofNat 6 (bits w 8 6)) (fZ w)))
  | 0x34 => dec34 w | 0x35 => dec35 w | 0x36 => dec36 w | 0x37 => dec37 w
  | 0x3F => dec3F w
  | _ => .error .unassignedMajor

/-- The decoder of one instruction word. -/
def decode (w : Word) : Except Reject Instr := decodeNat w.toNat

/-- A word from its four bytes, lowest address first (R5, R40). -/
def wordOfBytes (b0 b1 b2 b3 : Byte) : Word :=
  BitVec.ofNat 32 (b0.toNat + 256 * b1.toNat + 65536 * b2.toNat + 16777216 * b3.toNat)

/-- The decoder over bytes: one word, and the bytes after it. -/
def decodeBytes : List Byte → Except Reject (Instr × List Byte)
  | b0 :: b1 :: b2 :: b3 :: rest =>
    match decode (wordOfBytes b0 b1 b2 b3) with
    | .ok i => .ok (i, rest)
    | .error r => .error r
  | _ => .error .short

/-- The instruction the decoder reads from a table row's word: one 32-bit word, whose bytes stand
little-endian in memory. -/
def decodeTableWord (nbits w : Nat) : Option Instr :=
  let x := w % 2 ^ nbits
  let byte (k : Nat) : Byte := BitVec.ofNat 8 (x / 256 ^ k % 256)
  match decodeBytes [byte 0, byte 1, byte 2, byte 3] with
  | .ok (i, _) => if nbits ≤ 32 then some i else none
  | .error _ => none

/-! The encoder, from Tables 3.1 to 3.7. -/

/-- Format A: major, function and the common fields. -/
def encA (op fn : Nat) (d a b : Nat) (n w z : Bool) : Nat :=
  op * 2 ^ 26 + d * 2 ^ 20 + a * 2 ^ 14 + b * 2 ^ 8 + fn * 8 + bnum n * 4 + bnum w * 2 + bnum z

def encABW (op fn : Nat) (f : ABW) : Nat := encA op fn f.d.toNat f.a.toNat f.b.toNat f.n f.w f.z
def encAW (op fn : Nat) (f : AW) : Nat := encA op fn f.d.toNat f.a.toNat 0 f.n f.w f.z
def encAB (op fn : Nat) (w : Bool) (f : AB) : Nat := encA op fn f.d.toNat f.a.toNat f.b.toNat f.n w f.z
def encA1 (op fn : Nat) (w : Bool) (f : A1) : Nat := encA op fn f.d.toNat f.a.toNat 0 f.n w f.z

/-- Format I. -/
def encI (op d a imm : Nat) (n z : Bool) : Nat :=
  op * 2 ^ 26 + d * 2 ^ 20 + a * 2 ^ 14 + imm * 4 + bnum n * 2 + bnum z

/-- Format M. -/
def encM (op d a ac off : Nat) (q z : Bool) : Nat :=
  op * 2 ^ 26 + d * 2 ^ 20 + a * 2 ^ 14 + ac * 2 ^ 10 + off * 4 + bnum q * 2 + bnum z

/-- Format B. -/
def encB (op off k : Nat) (p z : Bool) : Nat :=
  op * 2 ^ 26 + off * 32 + k * 4 + bnum p * 2 + bnum z

/-- Format X. -/
def encX (kind payload : Nat) : Nat := 0x3F * 2 ^ 26 + kind * 2 ^ 22 + payload * 2

/-- Format S. -/
def encS (d a code fn : Nat) (z : Bool) : Nat :=
  0x2D * 2 ^ 26 + d * 2 ^ 20 + a * 2 ^ 14 + code * 16 + fn * 2 + bnum z

/-- Format Q; ctl holds word bits [7:1]. -/
def encQ (op d a b ctl : Nat) (z : Bool) : Nat :=
  op * 2 ^ 26 + d * 2 ^ 20 + a * 2 ^ 14 + b * 2 ^ 8 + ctl * 2 + bnum z

def encImm (op : Nat) (f : ImmOp) : Nat := encI op f.d.toNat f.a.toNat f.imm.toNat f.n f.z
def encSh (sel : Nat) (f : ShOp) : Nat := encI 0x0C f.d.toNat f.a.toNat (sel * 2 ^ 10 + f.c.toNat) f.n f.z
def encLd (op : Nat) (q : Bool) (f : LdF) : Nat := encM op f.d.toNat f.a.toNat f.ac.toNat f.off.toNat q f.z
def encSt (op : Nat) (f : StF) : Nat := encM op f.d.toNat f.a.toNat 0 f.off.toNat f.q f.z
def encRed (fn h : Nat) (f : RedF) : Nat :=
  encA 0x17 fn f.d.toNat f.a.toNat (h * 8 + f.op.code) f.n false f.z
def encMOp (fn : Nat) (f : MOp) : Nat := encQ 0x37 f.d.toNat f.a.toNat f.b.toNat (fn * 8 + bnum f.i) f.z
def encBf (op : Nat) (f : BfF) : Nat :=
  encQ op f.d.toNat f.a.toNat f.b.toNat (f.xf.code * 32 + f.yf.code * 8 + f.rnd.code) f.z
def encInd (fn : Nat) (a tag : Nat) (z : Bool) : Nat :=
  0x2B * 2 ^ 26 + a * 2 ^ 14 + tag % 64 * 2 ^ 8 + fn * 8 + tag / 64 * 2 + bnum z

/-- The word of an instruction; the events have none. -/
def encodeNat : Instr → Option Nat
  | .add f => some (encABW 0 0 f) | .sub f => some (encABW 0 1 f) | .and f => some (encABW 0 2 f)
  | .or f => some (encABW 0 3 f) | .xor f => some (encABW 0 4 f) | .andn f => some (encABW 0 5 f)
  | .orn f => some (encABW 0 6 f) | .shl f => some (encABW 0 7 f) | .shr f => some (encABW 0 8 f)
  | .sar f => some (encABW 0 9 f) | .rol f => some (encABW 0 10 f) | .min f => some (encABW 0 11 f)
  | .max f => some (encABW 0 12 f) | .minu f => some (encABW 0 13 f) | .maxu f => some (encABW 0 14 f)
  | .abs f => some (encAW 0 15 f) | .neg f => some (encAW 0 16 f) | .sext f => some (encABW 0 17 f)
  | .addImm f => some (encImm 8 f) | .andImm f => some (encImm 9 f)
  | .orImm f => some (encImm 10 f) | .xorImm f => some (encImm 11 f)
  | .shlImm f => some (encSh 0 f) | .shrImm f => some (encSh 1 f)
  | .sarImm f => some (encSh 2 f) | .rolImm f => some (encSh 3 f)
  | .mul f => some (encABW 1 0 f) | .mulh f => some (encAB 1 1 false f) | .mulhu f => some (encAB 1 2 false f)
  | .mad f => some (encAB 1 3 false f) | .div f => some (encABW 1 4 f) | .divu f => some (encABW 1 5 f)
  | .rem f => some (encABW 1 6 f) | .remu f => some (encABW 1 7 f)
  | .mulw f => some (encAB 4 0 true f) | .mulwu f => some (encAB 4 1 true f)
  | .madw f => some (encAB 4 2 true f) | .madwu f => some (encAB 4 3 true f)
  | .clz f => some (encAW 2 0 f) | .popc f => some (encAW 2 1 f) | .brev f => some (encAW 2 2 f)
  | .bfx f => some (encAB 2 3 false f) | .bfxu f => some (encAB 2 4 false f) | .bfi f => some (encAB 2 5 false f)
  | .cmp k c a b w z => some (encA 3 c.code k.toNat a.toNat b.toNat false w z)
  | .cmpImm k c a imm z => some (encI 0x0F (c.toNat * 8 + k.toNat) a.toNat imm.toNat false z)
  | .sel f k => some (encABW 3 (16 + k.toNat) f)
  | .mov f => some (encAW 5 0 f)
  | .movi d imm n z => some (encI 0x0D d.toNat 0 imm.toNat n z)
  | .setix a z => some (encA 5 1 0 a.toNat 0 false false z)
  | .setsix a z => some (encA 5 2 0 a.toNat 0 false false z)
  | .setixImm imm z => some (encI 0x0D 0 1 imm.toNat false z)
  | .setsixImm imm z => some (encI 0x0D 0 2 imm.toNat false z)
  | .kand f => some (encA 5 3 f.d.toNat f.a.toNat f.b.toNat false false f.z)
  | .kor f => some (encA 5 4 f.d.toNat f.a.toNat f.b.toNat false false f.z)
  | .knot f => some (encA 5 5 f.d.toNat f.a.toNat 0 false false f.z)
  | .kmov f => some (encA 5 6 f.d.toNat f.a.toNat 0 false false f.z)
  | .lea d imm n z => some (encI 0x0E d.toNat 0 imm.toNat n z)
  | .fadd f => some (encAB 0x10 0 false f) | .fsub f => some (encAB 0x10 1 false f)
  | .fmul f => some (encAB 0x10 2 false f) | .ffma f => some (encAB 0x10 3 false f)
  | .fmin f => some (encAB 0x10 4 false f) | .fmax f => some (encAB 0x10 5 false f)
  | .fabs f => some (encA1 0x10 6 false f) | .fneg f => some (encA1 0x10 7 false f)
  | .fcmp k c a b z => some (encA 0x10 (8 + c.code) k.toNat a.toNat b.toNat false false z)
  | .dadd f => some (encAB 0x11 0 true f) | .dsub f => some (encAB 0x11 1 true f)
  | .dmul f => some (encAB 0x11 2 true f) | .dfma f => some (encAB 0x11 3 true f)
  | .dmin f => some (encAB 0x11 4 true f) | .dmax f => some (encAB 0x11 5 true f)
  | .dabs f => some (encA1 0x11 6 true f) | .dneg f => some (encA1 0x11 7 true f)
  | .dcmp k c a b z => some (encA 0x11 (8 + c.code) k.toNat a.toNat b.toNat false true z)
  | .hfma2 f => some (encAB 0x12 0 false f) | .bfma2 f => some (encAB 0x12 1 false f)
  | .hadd2 f => some (encAB 0x12 2 false f) | .badd2 f => some (encAB 0x12 3 false f)
  | .hmul2 f => some (encAB 0x12 4 false f) | .bmul2 f => some (encAB 0x12 5 false f)
  | .cvt f form r => some (encA 0x13 form.code f.d.toNat f.a.toNat r.code f.n false f.z)
  | .dot4Sh f sel => some (encAB 0x14 sel.toNat false f)
  | .dot4I8 f => some (encAB 0x14 4 false f)
  | .maxe f => some (encAB 0x15 0 false f) | .scalee f => some (encAB 0x15 1 false f)
  | .rcp f => some (encA1 0x16 0 false f) | .rsq f => some (encA1 0x16 1 false f)
  | .sqrt f => some (encA1 0x16 2 false f) | .ex2 f => some (encA1 0x16 3 false f)
  | .lg2 f => some (encA1 0x16 4 false f) | .sinpi f => some (encA1 0x16 5 false f)
  | .cospi f => some (encA1 0x16 6 false f) | .tanh f => some (encA1 0x16 7 false f)
  | .lpickAt f => some (encAB 0x17 0 false f) | .lpickBack f => some (encAB 0x17 1 false f)
  | .lpickFwd f => some (encAB 0x17 2 false f) | .lpickMir f => some (encAB 0x17 3 false f)
  | .qswpH f => some (encA1 0x17 4 false f) | .qswpV f => some (encA1 0x17 5 false f)
  | .qswpD f => some (encA1 0x17 6 false f)
  | .pollAny f => some (encA 0x17 7 f.d.toNat f.a.toNat 0 false false f.z)
  | .pollAll f => some (encA 0x17 8 f.d.toNat f.a.toNat 0 false false f.z)
  | .pollMask f => some (encA 0x17 9 f.d.toNat f.a.toNat 0 f.n false f.z)
  | .pollCnt f => some (encA 0x17 14 f.d.toNat f.a.toNat 0 f.n false f.z)
  | .red f => some (encRed 10 0 f) | .segred f h => some (encRed 11 h.toNat f)
  | .scan f => some (encRed 12 0 f) | .wred f => some (encRed 13 0 f)
  | .ldB f => some (encLd 0x18 false f) | .ldH f => some (encLd 0x19 false f)
  | .ldW f => some (encLd 0x1A false f) | .ldD f => some (encLd 0x1B false f)
  | .ldQ f => some (encLd 0x1C false f)
  | .ldcB f => some (encLd 0x18 true f) | .ldcH f => some (encLd 0x19 true f)
  | .ldcW f => some (encLd 0x1A true f) | .ldcD f => some (encLd 0x1B true f)
  | .ldcQ f => some (encLd 0x1C true f)
  | .gathW f => some (encA 0x1F f.ac.toNat f.d.toNat f.a.toNat f.b.toNat false false f.z)
  | .gathD f => some (encA 0x1F (16 + f.ac.toNat) f.d.toNat f.a.toNat f.b.toNat false false f.z)
  | .ldp f => some (encM 0x1D f.d.toNat f.a.toNat f.sz.code f.off.toNat false f.z)
  | .stp f => some (encM 0x1E f.d.toNat f.a.toNat f.sz.code f.off.toNat false f.z)
  | .acnt ac imm z => some (encI 0x2E (16 + ac.toNat) 0 imm.toNat false z)
  | .wait ac imm => some (encI 0x2E ac.toNat 0 imm.toNat false true)
  | .waitall => some (encI 0x2E 32 0 0 false true)
  | .stB f => some (encSt 0x20 f) | .stH f => some (encSt 0x21 f) | .stW f => some (encSt 0x22 f)
  | .stD f => some (encSt 0x23 f) | .stQ f => some (encSt 0x24 f)
  | .atom f o => some (encA 0x25 o.code f.d.toNat f.a.toNat f.b.toNat false f.w f.z)
  | .ared a b o w z => some (encA 0x25 (8 + o.code) 0 a.toNat b.toNat false w z)
  | .cas128 d a b z => some (encA 0x26 0 d.toNat a.toNat b.toNat false false z)
  | .fence s z => some (encA 0x26 1 s.code 0 0 false false z)
  | .collAdd a z => some (encA 0x26 2 0 a.toNat 0 false false z)
  | .collMin a z => some (encA 0x26 3 0 a.toNat 0 false false z)
  | .collMax a z => some (encA 0x26 4 0 a.toNat 0 false false z)
  | .tcopy a z => some (encA 0x27 0 0 a.toNat 0 false false z)
  | .tgath a z => some (encA 0x27 1 0 a.toNat 0 false false z)
  | .tscat a z => some (encA 0x27 2 0 a.toNat 0 false false z)
  | .tfill a z => some (encA 0x27 3 0 a.toNat 0 false false z)
  | .pres k a z => some (encA 0x27 4 k.toNat a.toNat 0 false false z)
  | .sgjoin a z => some (encA 0x27 8 0 a.toNat 0 false false z)
  | .sgleave z => some (encA 0x27 9 0 0 0 false false z)
  | .sgmap a z => some (encA 0x27 10 0 a.toNat 0 false false z)
  | .bra off p => some (encB 0x28 off.toNat 0 p true)
  | .call off p => some (encB 0x28 off.toNat 1 p true)
  | .rcv off p z => some (encB 0x28 off.toNat 2 p z)
  | .brk f => some (encB 0x29 f.off.toNat f.k.toNat f.p true)
  | .refill f => some (encB 0x2A f.off.toNat f.k.toNat f.p true)
  | .ret => some (encInd 0 0 0 true)
  | .brx f => some (encInd 1 f.a.toNat f.tag.toNat true)
  | .callx f => some (encInd 2 f.a.toNat f.tag.toNat true)
  | .lpad tag z => some (encInd 3 0 tag.toNat z)
  | .exit => some (encInd 4 0 0 true)
  | .barArr nb z => some (encI 0x2C 0 0 nb.toNat false z)
  | .barWait nb => some (encI 0x2C 1 0 nb.toNat false true)
  | .barSync nb z => some (encI 0x2C 2 0 nb.toNat false z)
  | .yield z => some (encI 0x2C 3 0 0 false z)
  | .heart a z => some (encI 0x2C 4 a.toNat 0 false z)
  | .trap c z => some (encS 0 0 c.toNat 0 z)
  | .tret z => some (encS 0 0 0 1 z)
  | .skip z => some (encS 0 0 0 2 z)
  | .kill z => some (encS 0 0 0 3 z)
  | .sysr d c z => some (encS d.toNat 0 c.toNat 4 z)
  | .sysw a c z => some (encS 0 a.toNat c.toNat 5 z)
  | .advImm h => some (encX 0 (h.toNat * 2))
  | .advRnd r => some (encX 1 r.code)
  | .advScope s o => some (encX 2 (o.code * 8 + s.code))
  | .advCache h => some (encX 3 h.code)
  | .advSched d j => some (encX 4 (bnum j * 32 + d.toNat))
  | .advTag t => some (encX 5 t.toNat)
  | .bfw a z => some (encQ 0x30 0 a.toNat 0 0 z)
  | .bfs f => some (encBf 0x31 f) | .bfch f => some (encBf 0x32 f)
  | .bfp p z => some (encQ 0x33 0 0 p.toNat 0 z)
  | .bft d a b xf st z => some (encQ 0x34 d.toNat a.toNat b.toNat (xf.code * 32 + bnum st * 8) z)
  | .sscan d a b x yf qc z =>
      some (encQ 0x35 d.toNat a.toNat b.toNat (bnum x * 32 + yf.code * 8 + qc.toNat * 2) z)
  | .mloop n a off z => some (encQ 0x36 n.toNat a.toNat (off.toNat / 16) (off.toNat % 16) z)
  | .mmov d a src z => some (encQ 0x36 d.toNat a.toNat 0 (16 + src.code) z)
  | .msetsd n a z => some (encQ 0x36 n.toNat a.toNat 0 32 z)
  | .mbar nb z => some (encQ 0x36 0 nb.toNat 0 48 z)
  | .mwait nb z => some (encQ 0x36 0 nb.toNat 0 64 z)
  | .mcopy d a b dir z => some (encQ 0x36 d.toNat a.toNat b.toNat (80 + dir.code) z)
  | .madd f => some (encMOp 0 f) | .msub f => some (encMOp 1 f) | .mmul f => some (encMOp 2 f)
  | .mand f => some (encMOp 3 f) | .mor f => some (encMOp 4 f) | .mxor f => some (encMOp 5 f)
  | .mshl f => some (encMOp 6 f) | .mshr f => some (encMOp 7 f) | .mmin f => some (encMOp 8 f)
  | .mmax f => some (encMOp 9 f)
  | .mli d imm z => some (encQ 0x37 d.toNat (imm.toNat / 64) (imm.toNat % 64) 84 z)
  | .mliM d imm z => some (encQ 0x37 d.toNat (imm.toNat / 64) (imm.toNat % 64) 81 z)
  | .mliT d imm z => some (encQ 0x37 d.toNat (imm.toNat / 64) (imm.toNat % 64) 82 z)
  | _ => none

/-- The words of an instruction: one, or none for an event. -/
def encode (i : Instr) : List Word :=
  match encodeNat i with
  | some w => [BitVec.ofNat 32 w]
  | none => []

end Sys2Proof
end

