-- ==== Sys2Proof/Machine/Map.lean ====
section
/-! DEFINITION. Finite maps: reading, writing, removing and the canonical form. -/

namespace Sys2Proof

/-- The value at a key. -/
def PMap.get? {α : Type} : PMap α → Nat → Option α
  | [], _ => none
  | (k, x) :: m, j => if j = k then some x else PMap.get? m j

/-- The map with a key's value set, keys kept rising. -/
def PMap.set {α : Type} : PMap α → Nat → α → PMap α
  | [], j, y => [(j, y)]
  | (k, x) :: m, j, y =>
    if j < k then (j, y) :: (k, x) :: m
    else if j = k then (k, y) :: m
    else (k, x) :: PMap.set m j y

/-- The map without a key. -/
def PMap.del {α : Type} (m : PMap α) (j : Nat) : PMap α := m.filter fun p => p.1 != j

/-- The map with a key's value changed, where it has one. -/
def PMap.modify {α : Type} (m : PMap α) (j : Nat) (f : α → α) : PMap α :=
  m.map fun p => if p.1 = j then (p.1, f p.2) else p

def PMap.keys {α : Type} (m : PMap α) : List Nat := m.map (·.1)
def PMap.vals {α : Type} (m : PMap α) : List α := m.map (·.2)
def PMap.has {α : Type} (m : PMap α) (j : Nat) : Bool := (PMap.get? m j).isSome

/-- The canonical form: keys strictly rising. -/
def PMap.wf {α : Type} : PMap α → Bool
  | [] => true
  | [_] => true
  | (k, _) :: (l, y) :: m => decide (k < l) && PMap.wf ((l, y) :: m)

/-- The element at a place, changed. -/
def listModify {α : Type} : List α → Nat → (α → α) → List α
  | [], _, _ => []
  | x :: l, 0, f => f x :: l
  | x :: l, n + 1, f => x :: listModify l n f

/-- A list without the element at a place. -/
def listDrop {α : Type} : List α → Nat → List α
  | [], _ => []
  | _ :: l, 0 => l
  | x :: l, n + 1 => x :: listDrop l n

end Sys2Proof
end

