-- ==== Sys2Proof/Config.lean ====
section
/-! DEFINITION. What is fixed for every LH-DV1 (R1 to R9, R25 to R28), and the free values: constants
without a body, of which no proof can know the value. -/

namespace Sys2Proof.Config

/-- Cores of the module (R25). -/
def cores : Nat := 192

/-- Cores of one die, and of one quadrant (R25). -/
def coresPerDie : Nat := 48
def coresPerQuadrant : Nat := 12

/-- Highest local physical address (R65). -/
def maxPA : Nat := 0x8FFFFFFFFF

/-- Granules of the free-row map (R66, R85). -/
def granules : Nat := 1179648

/-- Bytes of one SRAM pool bank (R130). -/
def bankBytes : Nat := 49152

/-- Words of one clause (R48). -/
def clauseWords : Nat := 24

/-- Entries of a team's store queue (R305), of its fault record (R122), of its divergence stack (R334). -/
def storeQueue : Nat := 64
def faultEntries : Nat := 8
def stackEntries : Nat := 32

/-- Copies one copy engine holds (R162), COLLs one team holds in flight (R323). -/
def copies : Nat := 32
def colls : Nat := 4

/-- Range tasks of a core's queue (R357). -/
def tasks : Nat := 4

/-- Host sessions, stored replies and held commands of one (R80, R83, R84). -/
def sessions : Nat := 16
def storedReplies : Nat := 256
def heldCommands : Nat := 255

/-- Sets and ways of an L2 home slice (R125), and of an L1 (R127). -/
def l2Sets : Nat := 768
def l2Ways : Nat := 16
def l1Sets : Nat := 128
def l1Ways : Nat := 8

/-- Walkers of one die, entries of an L1 TLB and of an L2 TLB (R117). -/
def walkers : Nat := 64
def tlbEntries : Nat := 256
def l2TlbEntries : Nat := 8192

/-- Tags of one stack controller (R67) and records it keeps (R76). -/
def hbmTags : Nat := 1024
def hbmRecords : Nat := 1024

/-- Cycles of the arithmetic clock in one millisecond (R6, R28). -/
def cyclesPerMs : Nat := 2000000

/-- Cycles of 0.1 ms, the unit of REMOTE_TIMEOUT and GROUP_TIMEOUT (Table 5.1). -/
def cyclesPerTenth : Nat := 200000

/-- Cycles of 24 hours (R427). -/
def cyclesPerDay : Nat := 86400000 * cyclesPerMs

/-- Bytes of one block slot of a save area, 3.5 MiB (R92). -/
def saveSlotBytes : Nat := 3670016

/-- FREE VALUE. A fresh 64-bit value for each number: what a register, a byte or a result holds where
the manual says it is not defined (entry 4). -/
opaque free64 : Nat → DWord

/-- FREE VALUE. What a read returns of a load's destination before a wait has covered it (R63, R144): for each
load, each look at it, each register (entry 4). -/
opaque freeRead : Nat → Nat → Nat → DWord

/-- FREE VALUE. A fresh choice for each number: which of several parties that could act acts next, and
other choices the manual leaves open (entry 1). -/
opaque pick : Nat → Nat

/-- FREE VALUE. Which of the two bracketing values a faithful SFU result is, for each function and
operand (R233, entry 7): true is the larger one. -/
opaque sfuUpper : Nat → Word → Bool

/-- FREE VALUE. Spare rows of one bank beside the first, of which the manual gives no number (entry 19). -/
opaque moreSpareRows : Nat

/-- Spare rows of one bank: a row declared lasting is remapped to one, so a bank has one at least (R75, entry 19, DEDUCED). -/
def spareRows : Nat := moreSpareRows + 1

/-- Atomic lines that a core holds at most (R317). -/
def heldLines : Nat := 16

/-- FREE VALUE. Pointer entries that one walker's cache keeps, of which the manual gives no number (R117,
entry 11). -/
opaque pointers : Nat

/-- FREE VALUE. The bytes of the signature, r and then s, that the device puts under an attestation report
(R423, entry 13). -/
opaque signByte : List Byte → Nat → Byte

/-- The signature: two numbers of 48 bytes (R423). -/
def signature (body : List Byte) : List Byte := (List.range 96).map (signByte body)

end Sys2Proof.Config
end

