-- ==== Sys2Proof/Machine/State.lean ====
section
/-! DEFINITION. The state of one LH-DV1, as plain data: every piece of state the spec gives the machine
(INVENTORY.md lists them with their rules), the outcomes' reasons, and the state after cold reset. -/

namespace Sys2Proof.Machine

/-- Why a step ends with no next state. Both are SAFE: the machine stops where the manual gives no
party that could act, so no claim about a next state follows. -/
inductive Fault where
  | noIssuer      -- raised by every SIMT meaning when no live team stands at State.cur; safe
  | noSequencer   -- raised by every matrix-stream meaning when no running sequencer stands at State.cur; safe
  deriving DecidableEq, Repr

/-- Why a meaning is refused. -/
inductive Refusal where
  | notModelled (mnemonic : String)   -- raised by no meaning: an arm of Dispatch without one; safe
  deriving DecidableEq, Repr

/-- Trap causes (Table 20.1). -/
inductive Cause where
  | illegalInstruction | staleLatch | registerBound | misaligned | nonCanonical | pageFault
  | permission | poisonedData | remoteTimeout | landingPad | divergenceOverflow | barrierMismatch
  | dz | ov | groupRevoked | engineBound | watchdog | trap
  deriving DecidableEq, Repr

/-- Delivery kinds (Table 20.4). -/
inductive TrapKind where
  | precise | deferred | boundary | completed | sequencer
  | late      -- the precise trap of a window LDP that has issued, found when its data comes (R426, entry 62)
  deriving DecidableEq, Repr

/-- Kinds of access, as XFAULT.ACCESS names them (Table 6.5). -/
inductive Access where
  | read | write | fetch | atomic
  deriving DecidableEq, Repr

/-- A register: its value and its taint bit (R157, R180). -/
structure Reg where
  val : Word
  taint : Bool
  deriving DecidableEq, Repr

/-- A uniform register: its value, and the lanes in which its taint bit is set (R157). -/
structure UReg where
  val : Word
  taint : LaneMask
  deriving DecidableEq, Repr

/-- A latch of one lane: 64 bits and a taint bit (R181). -/
structure Latch where
  val : DWord
  taint : Bool
  deriving DecidableEq, Repr

/-- A leaf held in a TLB (R117): base of the virtual and the physical page, size code, level, rights. -/
structure TlbEntry where
  ctx : Nat
  va : Nat
  pa : Nat
  ps : Nat
  level : Nat
  w : Bool
  x : Bool
  u : Bool
  deriving DecidableEq, Repr

/-- A line held by an L2 home slice (R125): its number, PA[39:7], and the valid bits of its two sectors. -/
structure L2Line where
  line : Nat
  val : BitVec 2
  deriving DecidableEq, Repr

/-- Why a walk failed: the cause, KIND and LEVEL. -/
structure WalkFail where
  cause : Cause
  kind : Nat
  level : Nat
  deriving DecidableEq, Repr

/-- What a walk ends with. -/
inductive WalkRes where
  | ok (e : TlbEntry)
  | error (f : WalkFail)
  deriving DecidableEq, Repr

/-- A pointer entry held in a walker's cache (R117): the table that the upper address bits select. -/
structure PtrEntry where
  ctx : Nat
  level : Nat
  prefix_ : Nat
  table : Nat
  deriving DecidableEq, Repr

/-- An adverb waiting for the word it modifies (R49). -/
inductive Adverb where
  | imm (hi : BitVec 20) | rnd (r : Rnd) | scope (s : Scope) (o : Order) | cache (h : Hint)
  | sched (delay : BitVec 5) (j : Bool) | tag (t : BitVec 16)
  deriving DecidableEq, Repr

/-- The cause of a scheduler-visible wait (Table 19.4). -/
inductive WaitCause where
  | none | counter | all | presence | lock | barrier | range | replay | fence | xinv | seqTrap | exit
  deriving DecidableEq, Repr

/-- The wait word (Table 19.2). -/
structure WaitWord where
  cause : WaitCause
  argA : Nat
  argB : Nat
  deriving DecidableEq, Repr

/-- What a team is doing: running or ready, parked at its wait word, ended, killed, or stopped for
pre-emption (R368, R406). -/
inductive TeamStatus where
  | live | parked | exited | killed | stopped
  deriving DecidableEq, Repr

/-- How a pending path was stopped by a gather (R248): not yet, at a barrier word, elsewhere. -/
inductive PathStop where
  | pending | atBarrier | elsewhere
  deriving DecidableEq, Repr

/-- Phases of a refill frame (Table 18.2). -/
inductive Phase where
  | body | retire | prologue
  deriving DecidableEq, Repr

/-- The refill frame (Table 18.2, R361): the held mask, the phase and what R351 still has to do. -/
structure RefillFrame where
  held : LaneMask
  phase : Phase
  label : DWord
  cont : LaneMask          -- C
  runs : List (List Nat)   -- runs not yet run, each in lane order
  retired : List Nat       -- Rd: lanes of all runs
  toDraw : List Nat        -- lanes of Rd that have still to draw
  drew : LaneMask          -- P
  inside : LaneMask        -- lanes of a run or of the prologue that have not reached its end address
  deriving DecidableEq, Repr

/-- Divergence stack entries (Table 18.2, R392). -/
inductive StackEntry where
  | join (addr : DWord) (arrived : LaneMask)
  | path (addr : DWord) (mask : LaneMask) (stop : PathStop)
  | call (ret : DWord) (arrived : LaneMask)
  | refill (f : RefillFrame)
  | handler
  deriving DecidableEq, Repr

/-- A gather under way (R248): the team-wide word's address, the union of the arrived masks, the stack entries
already passed, and whether the word may now issue. The last three fields serve a gather within another's path: entries
set aside that belong to the outer gather's `depth` and `left`, and whether a REFILL has issued under it. -/
structure Gather where
  addr : DWord
  mask : LaneMask
  above : List StackEntry   -- entries passed and set aside, the deepest first
  depth : Nat         -- entries of the stack that stood there before the running path began
  left : Nat          -- entries of the stack that a path has left, by stopping or by arriving at the word
  short : Bool        -- some path of the entry reached has not arrived
  barrier : Bool
  go : Bool
  deep : Nat
  late : Nat
  spans : Bool
  deriving DecidableEq, Repr

/-- A load's destination, resolved at issue (R145): nothing, a lane register, a uniform register. -/
inductive Dest where
  | none
  | lane (reg : Nat)
  | uni (reg : Nat)
  deriving DecidableEq, Repr

/-- One lane of an outstanding pass that has not arrived: its address, the physical address once
translated, and how it is served. -/
structure LaneReq where
  lane : Nat
  va : Nat
  pa : Option Nat
  helper : Bool
  writes : Bool       -- false where a uniform destination takes another lane's data
  dep : Bool          -- consume dependency (R158)
  sent : Bool         -- a remote request is out for this lane
  fate : Option WalkFail   -- the failure of the walk it waited for, which ended with a miss that joined it (R118)
  deriving DecidableEq, Repr

/-- A faulted lane of an entry: its address, cause and XFAULT value; a copy's entry has one, for its
failing row. -/
structure FaultLane where
  lane : Nat
  va : Nat
  writes : Bool       -- its data goes to the destination
  dep : Bool          -- consume dependency
  cause : Cause
  xfault : Word
  deriving DecidableEq, Repr

/-- A pass of LD, LDC or GATH that has not counted (R143). -/
structure OutPass where
  id : Nat
  seq : Nat
  pc : DWord
  warp : Nat
  ac : Nat
  dest : Dest
  size : Nat
  consume : Bool
  acq : Option Scope
  scope : Scope
  bypass : Bool
  wide : Bool         -- an LDC of DIE scope or wider of the team had issued (R158)
  p1 : Bool           -- the privilege it was issued with
  counts : Bool       -- false for the replay of a fault entry (R123)
  taint : LaneMask    -- the lanes whose bit it sets in a uniform destination: all active ones for LDC, else none (R157)
  lanes : List LaneReq
  faulted : List FaultLane   -- lanes that failed translation while others were still to be translated (R122)
  deriving DecidableEq, Repr

/-- A copy-engine operation (R162 to R174): its kind and captured descriptor, and its progress. -/
inductive CopyKind where
  | tcopy | tfill | tgath | tscat
  deriving DecidableEq, Repr

/-- A row that failed, before the copy stops at it (R172). -/
structure RowFail where
  row : Nat
  cause : Cause
  xfault : Word
  addr : Nat
  deriving DecidableEq, Repr

/-- A piece of a global side once translated: offset in the run, address, length, physical address. -/
structure Piece where
  off : Nat
  va : Nat
  len : Nat
  pa : Nat
  deriving DecidableEq, Repr

/-- A row that reaches another device, under way: the bytes read so far, or to be written, by their offset in the row,
whether it is being written, the requests still to be sent (R97), and the answers still to come. -/
structure RowFlight where
  row : Nat
  data : PMap Byte
  writing : Bool
  todo : List Piece
  waits : Nat
  deriving DecidableEq, Repr

structure Copy where
  id : Nat
  team : Nat
  seq : Nat
  kind : CopyKind
  desc : List Word
  p1 : Bool             -- the privilege it was issued with
  admitted : Bool
  started : Bool
  mark : Nat            -- the core's stores stamped below it precede the copy's accesses (R169, R415)
  issued : Nat          -- rows below have issued (R166, R167)
  base : Nat            -- rows below have arrived or belong to an earlier part
  done : List Nat       -- rows from base on that have arrived
  batch : Nat           -- the next index batch to read
  idx : PMap Word       -- the index entries read, those of an earlier part until they are read again
  ibuf : PMap Byte      -- bytes of the batch read so far
  iwait : Nat           -- answers still to come for the batch
  ibad : Bool           -- a part of that batch has failed already
  flight : List RowFlight
  released : List Nat   -- rows of an earlier part that were performed: they keep no line absent
  wrote : List (Nat × Word)   -- the rows that have written their bytes, each with its index entry then
  failed : List RowFail
  counts : Bool         -- false for a reissue (R173)
  serials : PMap Nat    -- by slot: the block that stood in the slot at issue
  revoked : BitVec 12   -- slots revoked since issue (R174)
  pc : DWord
  deriving DecidableEq, Repr

/-- What a fault entry replays: the lanes of a pass, or a copy from a row on (R122, R172). -/
inductive FaultWhat where
  | pass (seq warp : Nat) (dest : Dest) (size : Nat) (consume : Bool) (acq : Option Scope) (scope : Scope) (bypass p1 : Bool)
      (taint : LaneMask)
  | copy (c : Copy) (row : Nat)
  deriving DecidableEq, Repr

/-- A fault entry of a team (R122, R155, R172): the lanes of one pass that failed translation, those
that failed at arrival, or a copy. Lanes stand in ascending order. -/
structure FaultEntry where
  what : FaultWhat
  pass : Nat
  arrival : Bool
  pc : DWord
  ac : Nat
  lanes : List FaultLane
  deriving DecidableEq, Repr

/-- One lane's bytes on their way to a physical address. -/
structure LaneStore where
  lane : Nat
  va : Nat
  pa : Nat
  bytes : List Byte
  deriving DecidableEq, Repr

/-- What an atomic does at its bytes (R310, R315). -/
inductive AtomWork where
  | op (o : AtomOp) (wide : Bool)
  | cas128
  deriving DecidableEq, Repr

/-- One lane of an atomic: its address, operand and compare value. -/
structure AtomLane where
  lane : Nat
  va : Nat
  pa : Nat
  y : BitVec 128
  cmp : BitVec 128
  deriving DecidableEq, Repr

/-- What a store-queue entry does when it leaves (R305). -/
inductive SqWork where
  | store (lanes : List LaneStore)
  | window (lanes : List LaneStore)               -- STP through the group window: slot addresses
  | atomic (id : Nat) (work : AtomWork) (ret : Bool) (lanes : List AtomLane)
  | fence (s : Scope)
  | barrier (nb : Nat)
  deriving DecidableEq, Repr

structure SqEntry where
  seq : Nat
  work : SqWork
  rel : Option Scope
  acq : Option Scope
  pc : DWord
  p1 : Bool           -- the privilege it was issued with
  deriving DecidableEq, Repr

/-- An ATOM or CAS128 whose result has not been written (R63, R312). -/
structure AtomRes where
  id : Nat
  seq : Nat
  pc : DWord
  dest : Dest
  regs : Nat                             -- registers the result takes: 1, 2 or 4
  lanes : List Nat                       -- lanes in all
  got : List (Nat × BitVec 128)          -- lanes answered
  bad : List (Nat × Cause × Nat)         -- lanes that failed: cause and address
  tainted : List Nat                     -- lanes whose base or operand was tainted (R157)
  acq : Option Scope
  p1 : Bool                              -- the privilege it was issued with
  deriving DecidableEq, Repr

/-- A destination marked poisoned by a failed atomic (R101, R313). -/
structure BadDest where
  lane : Nat
  dest : Dest
  regs : Nat
  cause : Cause
  addr : Nat
  deriving DecidableEq, Repr

/-- A failed store or ARED not yet delivered (R100); `at_` is the release that waits in the queue for its completion, with the
privilege that it was issued with. -/
structure FailRec where
  cause : Cause
  addr : Nat
  mask : LaneMask
  at_ : Option (DWord × Bool)
  deriving DecidableEq, Repr

/-- A COLL in flight (R323). -/
structure CollOp where
  id : Nat
  group : Nat
  round : Nat
  ac : Nat
  dst : List (Nat × Nat)       -- the result's physical runs: address and length
  rec_ : Nat
  bytes : Nat
  acq : Bool
  scope : Scope
  at_ : Nat                    -- the cycle at which the contribution left
  deriving DecidableEq, Repr

/-- A load destination not yet covered by a wait (R63, R144): reads of it are not defined. -/
structure Uncov where
  pass : Nat
  ac : Nat
  dest : Dest
  regs : Nat
  lanes : LaneMask
  seed : Nat
  deriving DecidableEq, Repr

/-- A window LDP whose data has not arrived (R140): lanes with their window address, as core and offset. -/
structure WinLoad where
  id : Nat
  seq : Nat
  dest : Dest
  size : Nat
  lanes : List (Nat × Nat × Nat)
  tainted : List Nat    -- lanes whose base was tainted (R157)
  helpers : List Nat    -- helper lanes, whose failures are suppressed (R147)
  p1 : Bool             -- the privilege it was issued with
  pc : DWord
  again : Bool          -- issued again by TRET (R399)
  bad : List (Nat × Nat)   -- its lanes that have met a word that cannot be corrected, with their addresses (R426)
  deriving DecidableEq, Repr

/-- An LDP or STP some of whose passes have been performed (R135): their warps, and every lane's address. -/
structure PadProg where
  done : List Nat
  addr : PMap Nat
  tainted : List Nat    -- lanes whose base was tainted (R157)
  deriving DecidableEq, Repr

/-- A path that a gather stopped within its word (R248): where it stands, its lanes, whether the word's first half is done, and
the passes of an LDP or STP that are. -/
structure Begun where
  pc : DWord
  mask : LaneMask
  second : Bool
  pad : Option PadProg
  deriving DecidableEq, Repr

/-- The trap being handled at P1 (R391, R399). -/
structure TrapFrame where
  kind : TrapKind
  cause : Cause
  resume : DWord        -- after TRET
  skipTo : DWord        -- after SKIP and TRET
  mask : LaneMask       -- the resume mask
  skipped : Bool
  wait : WaitWord       -- the wait that was left (R277, R411)
  second : Bool
  seq : Bool            -- origin: the matrix sequencer
  gathers : List Gather -- gathers the trap interrupted (R249)
  pad : Option PadProg
  begun : List Begun    -- of the paths that those gathers stopped
  addr : Nat            -- the fault address, for a report (R331)
  redo : List WinLoad   -- the window LDP that TRET issues again (R399, R426)
  deriving DecidableEq, Repr

/-- A team. Lane registers are keyed 1024 * lane + index, uniform registers by index, flags
8 * lane + k, latches 8 * lane + e; unlisted registers read as `State.undef` gives. -/
structure Team where
  status : TeamStatus
  wait : WaitWord
  left : WaitWord              -- the wait a due trap made it leave (R372, R411)
  seqDue : Bool                -- it shows wait cause 10 until its sequencer trap is delivered (R372)
  told : Bool                  -- the word at pc has written its CLAUSE and MARKER packets (R55)
  second : Bool                -- the word at pc has done its first half: BAR.SYNC has arrived, XINV has run
  begun : List Begun           -- paths that a gather stopped within their word (R248)
  pc : DWord
  words : Nat
  advs : List Adverb
  advPc : DWord
  act : LaneMask
  helpers : LaneMask
  size : Nat
  allot : Nat
  v : PMap Reg
  vSeed : Option Nat
  dead : Option (Nat × List Word)  -- after a restore: the registers below the allotment outside this mask are not defined (R407)
  hSeed : Option Nat           -- what the handler window and s56 to s63 read where unwritten
  u : PMap UReg
  uSeed : Option Nat
  cleanAt : Nat                -- the model's own: registers left unwritten since an earlier number have no taint (R157)
  k : PMap Bool
  lat : PMap Latch
  latW : List Nat              -- 8 * warp + e: written in the current clause
  ac : PMap (BitVec 16)
  ix : BitVec 9
  six : BitVec 6
  stack : List StackEntry      -- top first
  gathers : List Gather        -- innermost first
  addrhi : Word
  stat : PMap (BitVec 2)       -- per lane: bit 0 DZ, bit 1 OV
  trapen : BitVec 2
  cestat : BitVec 2
  sgmask : BitVec 12
  iter : PMap Word
  rangeNext : Word
  rangeEnd : Word
  ticket : Word
  arg : DWord
  htoken : Word
  p1 : Bool
  frame : Option TrapFrame
  trapcause : Word
  fpc : DWord
  faddr : DWord
  flane : LaneMask
  xfault : Word
  xfirst : Nat                 -- the fault entry that XREC shows as entry 0 (R398)
  xsel : Nat                   -- XREC.SEL and XREC.COUNT
  xcount : Nat
  tix : BitVec 9
  tsix : BitVec 6
  xinvlo : Word
  faults : List FaultEntry
  overflow : List FaultEntry
  ovfHeld : Nat                -- overflow records that stood when the handler was entered (R395)
  out : List OutPass
  unc : List Uncov
  look : Nat                   -- the model's own: tells reads of uncovered registers apart
  sq : List SqEntry
  atoms : List AtomRes
  lockOn : List (Nat × LaneMask)   -- what a wait of cause lock waits for: the numbers of results, each in some lanes (R63)
  wld : List WinLoad
  late : List WinLoad          -- window LDPs, or lanes of them, whose trap is due (R426)
  pad : Option PadProg
  bad : List BadDest
  upV : List Nat               -- lane registers whose parity fails, as keys of v (R426)
  upU : List Nat               -- the same of uniform registers
  failed : List FailRec
  colls : List CollOp
  seq : Nat                    -- program-order number of the next access
  sync : Nat                   -- the core's stores stamped below it precede the team's copies and COLLs (R306, R327, R415)
  homeSeen : List (Nat × Nat)  -- address and length of bytes the team has read at home (R149)
  ldcWide : Bool               -- an LDC of DIE scope or wider has issued (R158)
  pend : PMap Nat              -- pending barrier bits: barrier to the phase of the arrival
  passOver : Nat
  readyAt : Nat
  yielded : Bool               -- its last clause ended with a YIELD (R382)
  prio : Nat
  wdogFrom : Nat               -- cycle at which the watchdog interval began
  wdogElapsed : Nat            -- elapsed time carried over a save
  wdogDue : Bool
  wdog2From : Option Nat       -- the second interval
  ending : Bool                -- no path is left: the team ends once EXIT's waits are over (R336, R351)
  stopReq : Bool               -- the Harbour asked for a stop (R406)
  saveAll : Bool               -- stopped under R408: every lane register is saved
  pers : Bool
  deriving DecidableEq, Repr

/-- Scope of a named barrier's assignment (Table 18.1). -/
inductive BarScope where
  | block | grid | blockSeq
  deriving DecidableEq, Repr

/-- A named barrier (R373). -/
structure Barrier where
  scope : BarScope
  count : Nat
  arrived : Nat
  phase : Nat
  deriving DecidableEq, Repr

/-- A stage of BFS or BFCH: radix and stride (Table 14.9). -/
structure Stage where
  radix : Nat
  stride : Nat
  deriving DecidableEq, Repr

/-- An engine instruction with its captured operands (R252). -/
inductive EngineOp where
  | bf (n vecs : Nat) (stages : List Stage) (src srcPitch dst dstPitch weights : Nat)
      (xf : XFmt) (yf : YFmt) (rnd : Rnd)
  | bft (m n k : Nat) (a aPitch c cPitch b bPitch period : Nat) (xf : XFmt) (set : Bool)
  | mcopy (dir : MDir) (src dst len : Nat)
  | sscan (l p n q : Nat) (x xPitch b c bcPitch y yPitch g h : Nat) (f16 : Bool) (yf : YFmt)
  deriving DecidableEq, Repr

/-- The engine instruction in flight and its progress record (R280, R294). -/
structure Engine where
  pc : DWord
  op : EngineOp
  next : Nat
  draws : List (Nat × Nat)   -- cycles of occupancy still to come, with the units each draws (R275, R295, R386)
  deriving DecidableEq, Repr

/-- A recorded sequencer trap (R276). -/
structure SeqTrap where
  cause : Cause
  arg : Nat
  addr : Nat       -- MSQADDR's (Table 14.12)
  faddr : Nat      -- the fault address that the handler reads (R398)
  xfault : Word
  taken : Bool     -- a team is handling it
  deriving DecidableEq, Repr

/-- A loop-stack entry of the sequencer (R257). -/
structure LoopEntry where
  ctr : Nat
  first : DWord
  last : DWord
  deriving DecidableEq, Repr

/-- The matrix sequencer (Table 14.1, Table 14.12). -/
structure Sequencer where
  m : PMap Word
  sd : PMap Word
  lc : PMap (BitVec 16)
  loops : List LoopEntry
  wbase : Word
  period : Nat
  base : DWord              -- first stream word
  pc : DWord
  pend : PMap Nat
  engine : Option Engine
  last : Bool               -- the word with Z = 1 has executed
  ended : Bool
  parked : Bool
  trap : Option SeqTrap
  msqaddr : Word
  deriving DecidableEq, Repr

/-- The kernel entry record (Table 18.1, R405), offsets resolved to addresses. -/
structure KernelRec where
  addr : DWord
  rf : Bool
  ord : Bool
  pers : Bool
  ms : Bool
  entry : DWord
  body : DWord
  retire : DWord
  rend : DWord
  mstream : DWord
  allot : Nat
  size : Nat
  part : Word
  bars : List Word
  safe : List (DWord × List Word)
  deriving DecidableEq, Repr

/-- A range task (R357). -/
structure RangeTask where
  launch : Nat
  record : DWord      -- the kernel entry record's address
  arg : DWord         -- the argument pointer
  lo : Word
  hi : Word
  deriving DecidableEq, Repr

/-- A block on its core (R31, R367). -/
structure Block where
  serial : Nat                -- the model's own: no other block has it
  launch : Nat
  ctx : Nat
  number : Nat
  nTeams : Nat
  rec_ : KernelRec
  spad : PMap Byte
  spadSeed : Option Nat
  lineSeed : PMap Nat         -- lines whose unlisted bytes are not defined (R136, R173)
  absent : List Nat           -- lines whose presence bit is clear (R134)
  acc : PMap Byte
  accSeed : Option Nat
  upSp : List Nat             -- 8-byte words of scratchpad that cannot be corrected (R426)
  upAcc : List Nat            -- the same of accumulator storage
  bars : PMap Barrier
  seq : Sequencer
  copies : List Copy
  group : Option Nat          -- index into State.sgroups: the sharing group joined
  stopping : Bool             -- pre-emption requested
  stopAt : Nat                -- the cycle of the request (R408)
  giveUp : Bool               -- the core is taken back (R37)
  deriving DecidableEq, Repr

/-- A store of the core's store order not yet applied at its home (R306): the sector number of a local or
domain address, the bytes written in it, whose it is, its context, and its place among the core's stores.
A number from 16 on stands for a team that has ended, of which nothing is reported (R330). -/
structure HomeWrite where
  sector : Nat
  bytes : List (Nat × Byte)   -- offset in the sector, byte
  seq : Nat
  team : Nat
  lane : Nat
  va : Nat
  vas : List Nat    -- the addresses of all its lanes (R120, R126)
  ctx : Nat
  stamp : Nat
  deriving DecidableEq, Repr

/-- What the store queue of a team that has ended still holds (R93, R411): under which number its writes go, from 16 on, and
in the name of which context. -/
structure LeftQueue where
  team : Nat
  ctx : Nat
  sq : List SqEntry
  deriving DecidableEq, Repr

/-- A packet that waits in a core's trace buffer: the cycle it was made in, its place in that cycle (R419). -/
structure TracePkt where
  cycle : Nat
  rank : Nat
  word : DWord
  deriving DecidableEq, Repr

/-- The trace state of a core (R416 to R419). -/
structure Trace where
  on : Bool
  base : DWord
  log2 : Nat
  types : Word
  entry : DWord               -- address of the trace table entry
  wrptr : DWord
  lost : Nat
  lostNow : Nat               -- lost since the last LOST packet
  lostDue : Bool              -- a packet found the buffer full since the last LOST packet
  buf : List TracePkt
  waits : Nat                 -- answers still to come for the packet whose write is at another device
  bad : Bool                  -- a part of that write has failed
  stale : Bool                -- WRPTR or LOST has changed since it was last stored
  pcbase : PMap Nat           -- per team: PC[55:26] of the last PCBASE
  deriving DecidableEq, Repr

/-- A datapath (R369, R388): the team that holds it, the weight it is withheld for, and the cycles withheld so far. -/
structure Datapath where
  holder : Option Nat
  withheld : Option Nat
  stall : Nat
  deriving DecidableEq, Repr

/-- Longshore's dealings with a core (R357, R358): nothing asked, asked, a donor chosen (its key
among the teams), a task given, "none" answered. -/
inductive ShoreAsk where
  | idle | asked | donor (team : Nat) | given | none
  deriving DecidableEq, Repr

/-- A core (R28). -/
structure Core where
  lastCtx : Option Nat
  l1 : PMap (List Byte)        -- sector number to its 64 bytes
  tlb : List TlbEntry
  order : List HomeWrite
  left : List LeftQueue
  held : PMap Nat              -- atomic lines held and the cycle each was taken at (R317, R318)
  pred : PMap (BitVec 2)       -- contention predictor (R318)
  tasks : List RangeTask
  shore : ShoreAsk
  dps : PMap Datapath
  slot : Nat                   -- 4 * cycle + datapath + 1 of the last pass issued: a cycle's passes go in ascending order (R414)
  allow : Nat
  trace : Trace
  spares : Nat                 -- spare pool banks left (R427)
  lastingBanks : List Nat      -- pool banks to replace at the next block start
  withdrawn : Bool
  deriving DecidableEq, Repr

/-- A context (R34, R92). -/
structure Ctx where
  troot : DWord
  tvec : DWord
  trace : DWord
  saveBase : DWord
  saveSlots : Nat
  wdogMs : Nat
  lastGen : Word
  deriving DecidableEq, Repr

/-- A session (R80, R83, R84). -/
structure Session where
  grant : Grant
  next : Nat
  busy : Bool                        -- the command NEXT is being performed
  replies : List (Hdr × List Word)   -- the last replies, oldest first
  held : List Cmd                    -- commands that wait for their turn
  deriving DecidableEq, Repr

/-- A launch on this device (R104, R362 to R366). -/
structure Launch where
  ctx : Nat
  gen : Word
  rank : Nat
  parties : List (Nat × Nat)         -- device, context
  sess : Nat                         -- the LAUNCH's session and header, at the root
  hdr : Hdr
  rec_ : KernelRec
  arg : DWord
  teams : Nat
  prio : Nat
  blocks : Nat
  rbegin : Nat
  rend : Nat
  armedBy : List Nat                 -- at the root: ranks that armed
  started : Option Nat               -- the order in which it started here
  waiting : List Nat                 -- blocks waiting in the Harbour
  live : Nat                         -- blocks resident or saved
  killed : Nat                       -- teams killed here
  endedBy : List Nat                 -- at the root: ranks that ended
  killedAll : Nat                    -- at the root: teams killed on other participants
  dead : Bool                        -- its context was killed at the root: no completion report (R363)
  armedAt : Nat                      -- cycle at which it armed
  deriving DecidableEq, Repr

/-- A saved block (R407). -/
structure SavedBlock where
  block : Block
  teams : PMap Team
  deriving DecidableEq, Repr

/-- A reduction group registered here (R90, R105). -/
structure RedGroup where
  ctx : Nat
  type : Nat          -- 0 INT32, 1 INT64, 2 FP32
  index : Nat
  members : Nat
  count : Nat
  round : Nat
  ready : Bool
  cmd : Cmd           -- the GROUP_CREATE still to be answered
  deriving DecidableEq, Repr

/-- A sharing group (R138, R176): members are core numbers within the quadrant. -/
structure ShareGroup where
  ctx : Nat
  quadrant : Nat
  tag : Nat
  set : BitVec 12
  joined : BitVec 12
  revoked : BitVec 12
  deriving DecidableEq, Repr

/-- What a request of this device to another owner is for (R97 to R101). -/
inductive RemoteFor where
  | load (core team pass lane : Nat)
  | store (core team lane va stamp seq : Nat)
  | atom (core team id lane seq : Nat) (ret : Bool)
  | copyRead (core id row off : Nat)
  | copyIndex (core id off : Nat)
  | copyWrite (core id row : Nat)
  | trace (core : Nat) (live ptr : Bool)   -- a packet, or WRPTR and LOST, of a trace that still runs or not
  deriving DecidableEq, Repr

structure RemoteReq where
  id : Nat
  dev : Nat
  ctx : Nat
  addr : Nat          -- the owner's local physical address
  va : Nat
  len : Nat
  at_ : Nat           -- the cycle at which it left (R98)
  what : RemoteFor
  deriving DecidableEq, Repr

/-- A request a home slice has out to a stack controller (R67, R68). -/
structure HbmReq where
  stack : Nat
  tag : Nat
  sector : Nat
  write : Bool
  deriving DecidableEq, Repr

/-- A request that waits at its home slice, for a tag or for the sector's outstanding one (R67, R68). -/
structure HbmWait where
  sector : Nat
  write : Bool
  deriving DecidableEq, Repr

/-- An HBM error record (Table 4.3). -/
structure ErrRec where
  stack : Nat
  sector : Nat
  kind : Nat
  count : Nat
  time : Nat
  deriving DecidableEq, Repr

/-- A row remap (R75): being copied, or switched. -/
structure Remap where
  stack : Nat
  row : Nat
  copied : Bool
  deriving DecidableEq, Repr

/-- A translation walk in flight and the miss it serves (R118): its walker of the core's die (R117), and the
leaf it has found once a miss that joined it has needed it. -/
structure Walk where
  ctx : Nat
  core : Nat
  page : Nat          -- VA[55:16]
  walker : Nat
  res : Option TlbEntry
  deriving DecidableEq, Repr

/-- An XINV under way (R120). -/
structure Xinv where
  core : Nat
  team : Nat
  ctx : Nat
  vpn : Option Nat    -- MODE 0: VA[55:16]; MODE 1: none
  removed : Bool
  span : Nat          -- log2 of the largest leaf removed
  deriving DecidableEq, Repr

/-- A message this device has sent. -/
inductive OutMsg where
  | reply (sess : Nat) (hdr : Hdr) (words : List Word)
  | report (sess : Nat) (opc ctx : Nat) (seq : Word) (tag : DWord) (words : List Word)
  | forward (dev : Nat) (packet : List Word)
  | armed (dev ctx : Nat) (gen : Word)
  | refusal (dev ctx : Nat) (gen : Word) (status : Nat)
  | start (dev ctx : Nat) (gen : Word)
  | abort (dev ctx : Nat) (gen : Word)
  | killReport (dev ctx : Nat) (gen : Word) (words : List Word)
  | endMsg (dev ctx : Nat) (gen : Word) (killed : Nat)
  | request (dev id own ctx lpa : Nat) (op : RemoteOp)
  | answer (dev id : Nat) (a : RemoteAns)
  | gridArrive (dev ctx : Nat) (gen : Word) (nb : Nat)
  | coll (group round : Nat) (op : AredOp) (bytes : List Byte)
  | groupRegister (group : Nat)
  | groupWithdraw (group : Nat)
  | attestation (bytes : List Byte)
  deriving DecidableEq, Repr

/-- The partition change waiting for its core (R37, R86). -/
structure PartChange where
  cmd : Cmd
  core : Nat
  entry : BitVec 16
  deriving DecidableEq, Repr

/-- A firmware image in a boot slot (R422): whether its signature verifies and its key's hash is the fused
one, its security version, its digest. -/
structure Image where
  signed : Bool
  keyOk : Bool
  version : Nat
  digest : List Byte
  deriving DecidableEq, Repr

/-- What reaches the device from outside its messages: storage that fails its check (R425 to R427), and what
firmware and the makers of images do by themselves (R384, R422, R428). -/
inductive Outside where
  | l2Word (sector : Nat)
  | poolWord (core : Nat) (acc : Bool) (word : Nat)
  | poolCorrected (core bank : Nat)
  | laneReg (core team lane reg : Nat)
  | uniReg (core team reg : Nat)
  | voltage (domain tenthMv : Nat)
  | power (domain rate cap : Nat)
  | image (slot : Nat) (x : Image)
  | raiseMin (version : Nat)
  deriving DecidableEq, Repr

/-- A move still to come: an event, a word of a team, a word of a sequencer, something from outside. -/
inductive Move where
  | event (i : Instr)
  | team (core team : Nat)
  | seq (core : Nat)
  | outside (x : Outside)
  deriving DecidableEq, Repr

/-- Who acts when an instruction executes. -/
structure Actor where
  core : Nat
  team : Nat
  deriving DecidableEq, Repr

/-- The whole device. -/
structure State where
  -- the model's own: moves still to come, the acting party, the counter of free values
  sched : List Move
  ecc : List EccResult            -- the outcomes of the next reads a stack makes within a step; clean where none is named
  cur : Actor
  fresh : Nat
  -- time and reset
  cycle : Nat
  epoch : Nat                     -- cycles before the last cold reset: error windows are counted across it (R420)
  ready : Bool
  warm : Bool
  secVersion : Nat
  fwDigest : List Byte
  images : PMap Image             -- the two image slots (R422)
  fuseMin : Nat                   -- the fused minimum security version
  -- fabric configuration and links
  deviceId : Option Nat
  remoteTimeout : Nat
  startTimeout : Nat
  groupTimeout : Nat
  portsDown : List Nat
  unreachable : List Nat
  remote : List RemoteReq
  -- the Harbour
  sessions : PMap Session
  nonces : List (List Byte)
  discarded : Nat
  part : PMap (BitVec 16)
  partPend : List PartChange
  exports : PMap DWord
  groups : PMap RedGroup
  ctxs : PMap Ctx
  launches : PMap Launch
  armWait : List Instr            -- packets waiting for an armed launch (R103)
  saved : List SavedBlock
  tasks : List RangeTask          -- range tasks returned to the Harbour
  outbox : List OutMsg
  -- memory
  mem : List Host.Cell
  l2 : PMap Byte
  l2Lines : PMap (List L2Line)    -- by slice and set: the lines held, newest first
  l2Whole : List Nat              -- sectors held whole in L2, without the poison that their stack may give them
  poison : List Nat
  freeRows : List Nat             -- stack * 2^21 + row-bank: free-row bit set
  freePend : List Cmd
  hbmReqs : List HbmReq
  hbmWait : List HbmWait          -- requests that wait at their home slices
  hbmRecs : PMap (List ErrRec)
  declared : List (Nat × Nat)     -- rows declared lasting, not yet taken up: stack and row
  bankErrs : PMap Nat             -- corrected errors per stack and bank (R75)
  poolErrs : PMap (List Nat)      -- per core and pool bank, the times of its corrected errors of the last 24 hours
  poolDeclared : List (Nat × Nat) -- pool banks declared lasting, not yet taken up: core and bank
  errWindow : PMap (List Nat)     -- per row, the times of its corrected errors of the last 24 hours
  remaps : List Remap
  spareRows : PMap Nat            -- spare rows used, per stack and bank
  -- translation
  l2tlb : PMap (List TlbEntry)
  ptrs : PMap (List PtrEntry)     -- by walker: die * 64 + walker
  walks : List Walk
  xinvs : List Xinv
  -- engines between cores
  grid : PMap Barrier
  sgroups : PMap ShareGroup
  shoreQ : PMap (List Nat)        -- per die: cores whose request Longshore holds
  -- firmware
  rate : PMap Nat                 -- by voltage domain
  cap : PMap Nat
  temps : PMap Int
  throttle : List Nat             -- quadrants whose RATE a hot junction has halved (R428)
  volts : PMap Nat                -- by voltage domain, in tenths of a millivolt
  -- cores, blocks and teams
  cores : PMap Core
  blocks : PMap Block
  teams : PMap Team
  deriving DecidableEq, Repr

/-- What a byte of main memory that nothing has written reads as: DESIGN CHOICE 0 (entry 3). -/
def Memory.unlisted : Byte := 0

/-- The state right after cold reset (R420, R421): no session, context, block or request; the fabric
configuration at its defaults with DEVICE_ID unassigned (R79). The values the spec states none for are
named in entries 3 and 5. -/
def State.reset : State where
  sched := []
  ecc := []
  cur := ⟨0, 0⟩
  fresh := 0
  cycle := 0
  epoch := 0
  ready := false
  warm := false
  secVersion := 0
  fwDigest := []
  images := [(0, ⟨true, true, 0, []⟩)]
  fuseMin := 0
  deviceId := none
  remoteTimeout := 20
  startTimeout := 100
  groupTimeout := 20
  portsDown := []
  unreachable := []
  remote := []
  sessions := []
  nonces := []
  discarded := 0
  part := []
  partPend := []
  exports := []
  groups := []
  ctxs := []
  launches := []
  armWait := []
  saved := []
  tasks := []
  outbox := []
  mem := []
  l2 := []
  l2Lines := []
  l2Whole := []
  poison := []
  freeRows := []
  freePend := []
  hbmReqs := []
  hbmWait := []
  hbmRecs := []
  declared := []
  bankErrs := []
  poolErrs := []
  poolDeclared := []
  errWindow := []
  remaps := []
  spareRows := []
  l2tlb := []
  ptrs := []
  walks := []
  xinvs := []
  grid := []
  sgroups := []
  shoreQ := []
  rate := []
  cap := []
  temps := []
  throttle := []
  volts := []
  cores := []
  blocks := []
  teams := []

end Sys2Proof.Machine
end

