-- ==== Sys2Proof/Machine/Hbm.lean ====
section
/-! DEFINITION. Main memory as a list of bytes, the stacks' controllers with their queues and error records, and the
L2 home slices (R64 to R76, R124 to R126, R427). -/

namespace Sys2Proof.Machine

/-! Bytes and numbers (R5: little-endian). -/

def leNat : List Byte → Nat
  | [] => 0
  | b :: bs => b.toNat + 256 * leNat bs

def natLe : Nat → Nat → List Byte
  | 0, _ => []
  | n + 1, x => BitVec.ofNat 8 (x % 256) :: natLe n (x / 256)

def wordsLe (ws : List Word) : List Byte := ws.flatMap fun w => natLe 4 w.toNat

/-- 32-bit words of a byte run. -/
def leWords : List Byte → List Word
  | b0 :: b1 :: b2 :: b3 :: r => wordOfBytes b0 b1 b2 b3 :: leWords r
  | _ => []

/-! The memory list, in its one canonical form. -/

def Memory.read (m : List Host.Cell) (a : Nat) : Byte := (PMap.get? m a).getD Memory.unlisted

def Memory.write (m : List Host.Cell) (a : Nat) (b : Byte) : List Host.Cell :=
  if b = Memory.unlisted then PMap.del m a else PMap.set m a b

/-- Addresses rise and no entry equals what an unlisted address reads as. -/
def Memory.wf (m : List Host.Cell) : Bool := PMap.wf m && m.all fun p => p.2 != Memory.unlisted

def Memory.writes (m : List Host.Cell) (w : List (Nat × Byte)) : List Host.Cell :=
  w.foldl (fun m p => Memory.write m p.1 p.2) m

/-! Where a local physical address lies (R65, R66). -/

def stackOf (pa : Nat) : Nat := bits pa 11 3 ^^^ bits pa 19 3
def rbOf (pa : Nat) : Nat := bits pa 19 21
/-- A row-bank of one stack, the unit of the free-row map (R71). -/
def rowKey (pa : Nat) : Nat := stackOf pa * 2 ^ 21 + rbOf pa

/-! The stacks' errors (R73 to R76, R427). -/

/-- A row of one stack: the row-bank, the channel and the pseudo-channel (R66). -/
def rowOf (sector : Nat) : Nat :=
  let pa := 64 * sector
  rbOf pa * 64 + bits pa 14 5 * 2 + bits pa 10 1

def rowBank (row : Nat) : Nat := row / 64 % 48

/-- The bank a row's errors and spare rows are counted under. DESIGN CHOICE (entry 19): one count for each of the 48
bank numbers of a stack, over all its channels and pseudo-channels; the spec says "per bank" and no more. -/
def bankKey (stack row : Nat) : Nat := stack * 64 + rowBank row
def winKey (stack row : Nat) : Nat := stack * 2 ^ 27 + row

/-- The time that error windows are kept in (R420). -/
def State.clock (s : State) : Nat := s.epoch + s.cycle

/-- The errors of a list that lie within the preceding 24 hours. -/
def State.recent (s : State) (l : List Nat) : List Nat := l.filter fun t => decide (s.clock < t + Config.cyclesPerDay)

/-- The number that a pool bank's errors are counted under. -/
def poolKey (core bank : Nat) : Nat := core * 128 + bank

/-- A pool bank's corrected errors within the preceding 24 hours (R427). -/
def State.poolErrsOf (s : State) (core bank : Nat) : List Nat := s.recent ((PMap.get? s.poolErrs (poolKey core bank)).getD [])

/-- A row's corrected errors within the preceding 24 hours. -/
def State.errsOf (s : State) (stack row : Nat) : List Nat := s.recent ((PMap.get? s.errWindow (winKey stack row)).getD [])

/-- A record put behind the stack's others, of which the last 1,024 stay. -/
def State.putRecord (s : State) (sector kind : Nat) : State :=
  let k := stackOf (64 * sector)
  let r : ErrRec := ⟨k, sector, kind, (s.errsOf k (rowOf sector)).length, s.cycle / Config.cyclesPerMs⟩
  let all := (PMap.get? s.hbmRecs k).getD [] ++ [r]
  { s with hbmRecs := PMap.set s.hbmRecs k (all.drop (all.length - Config.hbmRecords)) }

def State.sparesUsed (s : State) (stack row : Nat) : Nat := (PMap.get? s.spareRows (bankKey stack row)).getD 0

/-- The row's bank has no spare row left. -/
def State.spareless (s : State) (stack row : Nat) : Bool := decide (Config.spareRows ≤ s.sparesUsed stack row)

/-- The third corrected error of a row within 24 hours declares it lasting (R427). -/
def State.declare (s : State) (stack row : Nat) : State :=
  if 3 ≤ (s.errsOf stack row).length && !s.declared.contains (stack, row) then { s with declared := s.declared ++ [(stack, row)] } else s

/-- A corrected error counted for its row and its bank, and recorded (R75, R76). -/
def State.corrected (s : State) (sector kind : Nat) : State :=
  let k := stackOf (64 * sector)
  let r := rowOf sector
  let s := { s with
    errWindow := PMap.set s.errWindow (winKey k r) (s.errsOf k r ++ [s.clock])
    bankErrs := PMap.set s.bankErrs (bankKey k r) ((PMap.get? s.bankErrs (bankKey k r)).getD 0 + 1) }
  (s.declare k r).putRecord sector kind

/-- A sector poisoned. -/
def State.poison1 (s : State) (sector : Nat) : State :=
  { s with poison := if s.poison.contains sector then s.poison else sector :: s.poison }

/-- A sector that cannot be corrected: poisoned, and recorded (R74, R76). DESIGN CHOICE (entry 19): of the two records
of one error without a spare row, KIND 2 is written before KIND 4. -/
def State.uncorrectable (s : State) (sector : Nat) : State :=
  let s := (s.poison1 sector).putRecord sector 2
  if s.spareless (stackOf (64 * sector)) (rowOf sector) then s.putRecord sector 4 else s

/-- How a read of a sector at its stack ends. -/
def State.eccRead (s : State) (sector kind : Nat) : EccResult → State
  | .clean => s
  | .corrected => s.corrected sector kind
  | .uncorrectable => s.uncorrectable sector

/-- A read of a sector at its stack within a step: its outcome is the next that `State.ecc` names (entry 67). -/
def State.eccTake (s : State) (sector : Nat) : State :=
  match s.ecc with
  | [] => s
  | r :: l => ({ s with ecc := l } : State).eccRead sector 0 r

/-! The requests of the home slices (R67, R68). -/

/-- The first tag a stack has free (R67). -/
def State.freeTag (s : State) (stack : Nat) : Option Nat :=
  (List.range Config.hbmTags).find? fun t => !s.hbmReqs.any fun r => r.stack == stack && r.tag == t

/-- A request issued, where the sector has none outstanding and its stack a free tag. -/
def State.hbmIssue (s : State) (w : HbmWait) : Option State :=
  if s.hbmReqs.any (·.sector == w.sector) then none
  else (s.freeTag (stackOf (64 * w.sector))).map fun t =>
    { s with hbmReqs := s.hbmReqs ++ [⟨stackOf (64 * w.sector), t, w.sector, w.write⟩] }

/-- A home slice's request to the controller: issued, or made to wait behind what is outstanding. Equal requests
that wait are one, and a read joins an outstanding read. -/
def State.hbmAsk (s : State) (sector : Nat) (write : Bool) : State :=
  let w : HbmWait := ⟨sector, write⟩
  if s.hbmWait.contains w || (!write && s.hbmReqs.any fun r => r.sector == sector && !r.write) then s
  else if s.hbmWait.any (·.sector == sector) then { s with hbmWait := s.hbmWait ++ [w] }
  else match s.hbmIssue w with
    | some s => s
    | none => { s with hbmWait := s.hbmWait ++ [w] }

/-! The home slices' lines (R124, R125). -/

/-- The slice of its die that homes a local address, and its number in the module (R124). -/
def sliceOf (pa : Nat) : Nat := 32 * (stackOf pa % 2) + 2 * bits pa 7 4 + (bits pa 14 1 ^^^ bits pa 23 1)
def globalSlice (pa : Nat) : Nat := 64 * (stackOf pa / 2) + sliceOf pa

/-- The set of a slice that a line falls in. DESIGN CHOICE (entry 11): the spec gives no index function, and the choice
affects timing only (R125). -/
def l2Key (line : Nat) : Nat := globalSlice (128 * line) * Config.l2Sets + line / 256 % Config.l2Sets

def State.l2Set (s : State) (line : Nat) : List L2Line := (PMap.get? s.l2Lines (l2Key line)).getD []

/-- A sector is held whole in its home slice. -/
def State.l2Has (s : State) (sector : Nat) : Bool :=
  s.l2Whole.contains sector || (s.l2Set (sector / 2)).any fun x => x.line == sector / 2 && x.val.getLsbD (sector % 2)

/-- The sectors of a line with bytes not yet written back. -/
def State.dirtyOf (s : State) (line : Nat) : List Nat :=
  [2 * line, 2 * line + 1].filter fun x => s.l2.any fun p => p.1 / 64 == x

/-- A line that gives way: its sectors with bytes not yet written back are written, whole where the L2 holds them
whole and clean of poison, and the others are held no more (R125). -/
def State.l2Evict (s : State) (x : L2Line) : State :=
  let dirty := s.dirtyOf x.line
  let whole := dirty.filter fun d => x.val.getLsbD (d % 2) && !s.poison.contains d && !s.l2Whole.contains d
  dirty.foldl (fun s d => s.hbmAsk d true)
    { s with l2Whole := whole ++ s.l2Whole.filter fun y => y / 2 != x.line || dirty.contains y }

/-- A sector's line allocated, with the sector valid or not; a seventeenth line of its set gives way (R125, entry 11). -/
def State.l2Put (s : State) (sector : Nat) (valid : Bool) : State :=
  let line := sector / 2
  let bit1 : BitVec 2 := if valid then BitVec.ofNat 2 (2 ^ (sector % 2)) else 0
  let old := s.l2Set line
  let v := ((old.find? (·.line == line)).map (·.val)).getD 0
  let all : List L2Line := ⟨line, v ||| bit1⟩ :: old.filter (·.line != line)
  let s := { s with l2Lines := PMap.set s.l2Lines (l2Key line) (all.take Config.l2Ways) }
  (all.drop Config.l2Ways).foldl State.l2Evict s

/-! The home slice's view: bytes written since the last write-back over HBM (R125, R71). -/

def State.homeByte (s : State) (pa : Nat) : Byte :=
  match PMap.get? s.l2 pa with
  | some b => b
  | none => if s.freeRows.contains (rowKey pa) then 0 else Memory.read s.mem pa

def State.homeBytes (s : State) (pa n : Nat) : List Byte := (List.range n).map fun i => s.homeByte (pa + i)
def State.homeNat (s : State) (pa n : Nat) : Nat := leNat (s.homeBytes pa n)

/-- Whether a local sector is poisoned where a program meets it (R74); a row declared free reads zero (R71). -/
def State.poisoned (s : State) (sector : Nat) : Bool :=
  s.poison.contains sector && !s.l2Whole.contains sector && !s.freeRows.contains (rowKey (64 * sector))

/-- The zeroing that precedes a request to a free row-bank (R71). -/
def State.touchRow (s : State) (pa : Nat) : State :=
  let k := rowKey pa
  if s.freeRows.contains k then
    { s with
      mem := s.mem.filter fun p => rowKey p.1 != k
      freeRows := s.freeRows.filter (· != k)
      poison := s.poison.filter fun x => rowKey (64 * x) != k }
  else s

/-- All 64 bytes of a sector are written. -/
def wholeSector (bytes : List (Nat × Byte)) : Bool := (List.range 64).all fun o => bytes.any fun p => p.1 == o

/-- A write applied at its home slice: a whole sector clears poison (R74); the line is allocated (R125). -/
def State.homeApply (s : State) (sector : Nat) (bytes : List (Nat × Byte)) : State :=
  let whole := wholeSector bytes
  ({ s with
    l2 := bytes.foldl (fun m p => PMap.set m (64 * sector + p.1) p.2) s.l2
    l2Whole := if whole then sector :: s.l2Whole.filter (· != sector) else s.l2Whole } : State).l2Put sector whole

/-- A sector's bytes of the L2 written to its stack, merged with what the stack holds; a whole sector clears its
poison. -/
def State.writeBack (s : State) (sector : Nat) : State :=
  let mine (p : Nat × Byte) : Bool := p.1 / 64 == sector
  { s with
    mem := Memory.writes s.mem (s.l2.filter mine).reverse
    l2 := s.l2.filter fun p => !mine p
    poison := if s.l2Whole.contains sector then s.poison.filter (· != sector) else s.poison
    l2Whole := s.l2Whole.filter (· != sector) }

/-- The line of a sector stands in its slice. -/
def State.l2Holds (s : State) (sector : Nat) : Bool := (s.l2Set (sector / 2)).any (·.line == sector / 2)

/-- Waiting requests issued, oldest first, as tags and sectors come free (R67, R68); a read that the L2 can now serve
is dropped. -/
def State.hbmPump (s : State) : State :=
  s.hbmWait.foldl (fun (s : State) w =>
    let s' : State := { s with hbmWait := s.hbmWait.erase w }
    if !w.write && s.l2Has w.sector then s'
    else match s'.hbmIssue w with
      | some s => s
      | none => s) s

/-- A request performed at its stack: a read fills the L2's sector; a write-back reads the sector first unless the L2
holds it whole (R71, R74, R125). -/
def State.hbmServe (s : State) (q : HbmReq) (r : EccResult) : State :=
  let s := s.touchRow (64 * q.sector)
  let s := if q.write && s.l2Has q.sector then s else s.eccRead q.sector 0 r
  if q.write then (let s := s.writeBack q.sector; if s.l2Holds q.sector then s.l2Put q.sector true else s)
  else s.l2Put q.sector true

/-- An outstanding request completed within a step, so that its sector or its tag comes free (entry 67). -/
def State.hbmFinish (s : State) (q : HbmReq) : State :=
  (({ s with hbmReqs := s.hbmReqs.erase q, ecc := s.ecc.tail } : State).hbmServe q (s.ecc.headD .clean)).hbmPump

/-- The outstanding request that a new read of a sector waits for: the sector's own, else, with no tag free, the first
of its stack (R67, R68). -/
def State.hbmBlocks (s : State) (sector : Nat) : Option HbmReq :=
  match s.hbmReqs.find? (·.sector == sector) with
  | some q => some q
  | none => if (s.freeTag (stackOf (64 * sector))).isSome then none else s.hbmReqs.find? (·.stack == stackOf (64 * sector))

/-- What a read of a sector must wait for completed, one request after another, those that the completions issue among them;
each completion takes one request away, and a read one that makes a line give way adds two write-backs at most. -/
def State.hbmClear (s : State) (sector : Nat) : Nat → State
  | 0 => s
  | n + 1 =>
    if s.l2Has sector then s
    else match s.hbmBlocks sector with
      | some q => (s.hbmFinish q).hbmClear sector n
      | none => s

/-- A sector as its home slice makes it ready to be read: from the L2, else by a tagged request that is issued and
completed within the step, once what it must wait for has completed (R67, R68, R71, R74, R125, entry 67). -/
def State.homeFill (s : State) (sector : Nat) : State :=
  let s := s.touchRow (64 * sector)
  if s.l2Has sector then s
  else
    let s := s.hbmClear sector (3 * (s.hbmReqs.length + s.hbmWait.length))
    if s.l2Has sector then s else (s.eccTake sector).l2Put sector true

/-- Bytes from an address on as writes of their sectors. -/
def sectorParts (pa : Nat) (bs : List Byte) : List (Nat × List (Nat × Byte)) :=
  let addr := (List.range bs.length).zip bs
  let secs := ((List.range bs.length).map fun i => (pa + i) / 64).eraseDups
  secs.map fun x => (x, addr.filterMap fun p => if (pa + p.1) / 64 = x then some ((pa + p.1) % 64, p.2) else none)

def State.homeWrite (s : State) (pa : Nat) (bs : List Byte) : State :=
  (sectorParts pa bs).foldl (fun s p => s.homeApply p.1 p.2) s

end Sys2Proof.Machine
end

