-- ==== Sys2Proof/Machine/Memory.lean ====
section
/-! DEFINITION. Cores and their L1, held lines, domain addresses, address translation, scratchpad and accumulator
storage: the named operations over memory. -/

namespace Sys2Proof.Machine

/-! Cores. -/

/-- The trace state of a core that is not traced. -/
def Trace.off : Trace where
  on := false
  base := 0
  log2 := 0
  types := 0
  entry := 0
  wrptr := 0
  lost := 0
  lostNow := 0
  lostDue := false
  buf := []
  waits := 0
  bad := false
  stale := false
  pcbase := []

def Core.initial : Core where
  lastCtx := none
  l1 := []
  tlb := []
  order := []
  left := []
  held := []
  pred := []
  tasks := []
  shore := .idle
  dps := []
  allow := 0
  trace := .off
  slot := 0
  spares := 2
  lastingBanks := []
  withdrawn := false

def State.core (s : State) (c : Nat) : Core := (PMap.get? s.cores c).getD Core.initial
def State.setCore (s : State) (c : Nat) (x : Core) : State := { s with cores := PMap.set s.cores c x }
def State.modCore (s : State) (c : Nat) (f : Core → Core) : State := s.setCore c (f (s.core c))
def State.team? (s : State) (c t : Nat) : Option Team := PMap.get? s.teams (16 * c + t)
def State.setTeam (s : State) (c t : Nat) (x : Team) : State := { s with teams := PMap.set s.teams (16 * c + t) x }
def State.modTeam (s : State) (c t : Nat) (f : Team → Team) : State :=
  { s with teams := PMap.modify s.teams (16 * c + t) f }
def State.block? (s : State) (c : Nat) : Option Block := PMap.get? s.blocks c
def State.modBlock (s : State) (c : Nat) (f : Block → Block) : State :=
  { s with blocks := PMap.modify s.blocks c f }

def coreDie (c : Nat) : Nat := c / Config.coresPerDie
def coreQuadrant (c : Nat) : Nat := c / Config.coresPerQuadrant

/-- The context of the block on a core; 0 where there is none. -/
def State.ctxOf (s : State) (c : Nat) : Nat := ((s.block? c).map (·.ctx)).getD 0

/-- A fresh number for free values. -/
def State.tick (s : State) : State := { s with fresh := s.fresh + 1 }

/-! Held lines (R317, R318). -/

/-- The contention predictor's line index: PA[16:7] xor PA[26:17], from the line number (R318). -/
def predIndex (line : Nat) : Nat := bits line 0 10 ^^^ bits line 10 10

/-- A line's contention counter raised, up to 3. -/
def Core.contend (x : Core) (line : Nat) : Core :=
  let i := predIndex line
  let p := (PMap.get? x.pred i).getD 0
  { x with pred := if p != 3 then PMap.set x.pred i (p + 1) else x.pred }

/-- A held line given up; one recalled within 256 cycles of being taken raises its counter (R317, R318). -/
def Core.recall (x : Core) (line now : Nat) : Core :=
  match PMap.get? x.held line with
  | none => x
  | some at_ =>
    let y := { x with held := PMap.del x.held line }
    if now ≤ at_ + 256 then y.contend line else y

/-- A line recalled from every core that holds it. -/
def State.recallAll (s : State) (line : Nat) : State :=
  { s with cores := s.cores.map fun (p : Nat × Core) => (p.1, p.2.recall line s.cycle) }

/-- A line recalled from every core but one. -/
def State.recallFor (s : State) (c line : Nat) : State :=
  { s with cores := s.cores.map fun (p : Nat × Core) => (p.1, if p.1 = c then p.2 else p.2.recall line s.cycle) }

/-- A sector read at its home for a core: held lines of others recalled, then as `homeFill` (R317, R125). -/
def State.homeRead (s : State) (c sector : Nat) : State := (s.recallFor c (sector / 2)).homeFill sector

/-! The L1 (R127, R128). -/

def State.l1Drop (s : State) (c : Nat) : State := s.modCore c fun x => { x with l1 := [] }

/-- A present L1 copy updated by a write of its own core. -/
def State.l1Update (s : State) (c sector : Nat) (bytes : List (Nat × Byte)) : State :=
  s.modCore c fun x =>
    { x with l1 := PMap.modify x.l1 sector fun l => bytes.foldl (fun l p => l.set p.1 p.2) l }

/-- The lines that the L1 set of a line holds: 128 sets, by the low bits of the line number (R127). -/
def Core.l1Set (x : Core) (line : Nat) : List Nat :=
  ((x.l1.map fun p => p.1 / 2).filter fun l => l % Config.l1Sets == line % Config.l1Sets).eraseDups

/-- A sector allocated in the L1, of 8 ways. DESIGN CHOICE (entry 11): the spec names no way that gives way in a full
set, and a free choice takes one, with both its sectors. -/
def State.l1Fill (s : State) (c sector : Nat) : State :=
  let line := sector / 2
  let ls := (s.core c).l1Set line
  let data := s.homeBytes (64 * sector) 64
  if ls.contains line || ls.length < Config.l1Ways then
    s.modCore c fun x => { x with l1 := PMap.set x.l1 sector data }
  else
    let s := s.tick
    let v := ls.getD (Config.pick s.fresh % ls.length) 0
    s.modCore c fun x => { x with l1 := PMap.set (x.l1.filter fun p => p.1 / 2 != v) sector data }

/-! Domain addresses (R94, R95). -/

inductive Route where
  | local_ (pa : Nat)
  | remote (dev lpa : Nat)
  | refused               -- the device's own ID with an LPA beyond its memory (R94, R96)
  deriving DecidableEq, Repr

def isDomain (pa : Nat) : Bool := bit pa 55
def domDev (pa : Nat) : Nat := bits pa 40 13
def domLpa (pa : Nat) : Nat := bits pa 0 40

/-- A domain address that names this device and its memory is the local address it stands for (R95). -/
def State.canon (s : State) (pa : Nat) : Nat :=
  if isDomain pa && s.deviceId == some (domDev pa) && decide (domLpa pa ≤ Config.maxPA) then domLpa pa else pa

def State.route (s : State) (pa : Nat) : Route :=
  if isDomain pa then
    if s.deviceId = some (domDev pa) then
      (if domLpa pa ≤ Config.maxPA then .local_ (domLpa pa) else .refused)
    else .remote (domDev pa) (domLpa pa)
  else .local_ pa

/-! Translation (R109 to R118). -/

def pageBits (ps : Nat) : Nat := if ps = 0 then 16 else if ps = 1 then 21 else 30

/-- The XFAULT word (Table 6.4). -/
def xfaultWord (kind : Nat) (acc : Access) (level size : Nat) : Word :=
  let a := match acc with | .read => 0 | .write => 1 | .fetch => 2 | .atomic => 3
  BitVec.ofNat 32 (kind * 64 + a * 16 + level * 4 + size)

/-- What one table entry says (R111, R112, Table 6.3). -/
inductive EntryRead where
  | invalid
  | malformed
  | table (pa : Nat)
  | leaf (pa ps : Nat) (w x u : Bool)
  deriving DecidableEq, Repr

def readEntry (e lv : Nat) : EntryRead :=
  let addr := bits e 13 43 * 2 ^ 13
  let ps := bits e 5 2
  if !bit e 0 then .invalid
  else if bits e 56 8 != 0 || bits e 7 6 != 0 then .malformed
  else if !bit e 1 then
    if lv = 3 || bits e 2 5 != 0 || addr > Config.maxPA then .malformed else .table addr
  else if ps = 3 || (ps < 2 && lv != 3) || (ps = 2 && lv != 2) then .malformed
  else if addr % 2 ^ pageBits ps != 0 || (!isDomain addr && addr > Config.maxPA) then .malformed
  else .leaf addr ps (bit e 2) (bit e 3) (bit e 4)

/-- The walk from a table of level 4 - n on, for a core's die, and the pointers it read: every entry is read at its
home slice (R112). -/
def State.walk (s : State) (c ctx va : Nat) : Nat → Nat → List PtrEntry → State × WalkRes × List PtrEntry
  | 0, _, ps => (s, .error ⟨.pageFault, 1, 3⟩, ps)
  | n + 1, table, ps =>
    let lv := 3 - n
    let at_ := table + 8 * bits va (16 + 10 * n) 10
    let s := s.homeRead c (at_ / 64)
    if s.poisoned (at_ / 64) then (s, .error ⟨.poisonedData, 3, lv⟩, ps)
    else match readEntry (s.homeNat at_ 8) lv with
      | .invalid => (s, .error ⟨.pageFault, 0, lv⟩, ps)
      | .malformed => (s, .error ⟨.pageFault, 1, lv⟩, ps)
      | .table t => s.walk c ctx va n t (⟨ctx, lv + 1, va / 2 ^ (16 + 10 * n), t⟩ :: ps)
      | .leaf pa q w x u =>
        (s, .ok ⟨ctx, va / 2 ^ pageBits q * 2 ^ pageBits q, pa, q, lv, w, x, u⟩, ps)

def TlbEntry.covers (e : TlbEntry) (ctx va : Nat) : Bool :=
  e.ctx == ctx && va / 2 ^ pageBits e.ps == e.va / 2 ^ pageBits e.ps

/-- Capacities of the L1 and L2 TLBs (R117); the oldest entry gives way (entry 11). -/
def tlbPut (cap : Nat) (l : List TlbEntry) (e : TlbEntry) : List TlbEntry := (e :: l).take cap

/-- The level-1 table of a context. -/
def State.rootOf (s : State) (ctx : Nat) : Nat := ((PMap.get? s.ctxs ctx).map (·.troot.toNat)).getD 0

/-- A walk by one walker of a core's die, started at the deepest pointer its cache holds (R117). -/
def State.runWalk (s : State) (c walker ctx va : Nat) : State × WalkRes × List PtrEntry :=
  let cached := (PMap.get? s.ptrs (coreDie c * Config.walkers + walker)).getD []
  let hit (lv : Nat) := cached.find? fun p => p.ctx == ctx && p.level == lv && p.prefix_ == va / 2 ^ (56 - 10 * lv)
  match hit 3 with
  | some p => s.walk c ctx va 1 p.table []
  | none => match hit 2 with
    | some p => s.walk c ctx va 2 p.table []
    | none => match hit 1 with
      | some p => s.walk c ctx va 3 p.table []
      | none => s.walk c ctx va 4 (s.rootOf ctx) []

/-- The TLB entry that serves an address, if one is held. -/
def State.tlbHit (s : State) (c ctx va : Nat) : Option TlbEntry :=
  match (s.core c).tlb.find? (·.covers ctx va) with
  | some e => some e
  | none => ((PMap.get? s.l2tlb (coreQuadrant c)).getD []).find? (·.covers ctx va)

/-- A leaf held in the core's and its quadrant's TLB. -/
def State.tlbFill (s : State) (c : Nat) (e : TlbEntry) : State :=
  let s := s.modCore c fun x => { x with tlb := tlbPut Config.tlbEntries x.tlb e }
  let q := coreQuadrant c
  { s with l2tlb := PMap.set s.l2tlb q (tlbPut Config.l2TlbEntries ((PMap.get? s.l2tlb q).getD []) e) }

/-- The pointers a walk read held in its walker's cache, of a size the spec does not give (R117, entry 11). -/
def State.ptrFill (s : State) (c walker : Nat) (ps : List PtrEntry) : State :=
  if ps.isEmpty then s
  else
    let k := coreDie c * Config.walkers + walker
    { s with ptrs := PMap.set s.ptrs k ((ps ++ (PMap.get? s.ptrs k).getD []).take Config.pointers) }

/-- The walks that the walkers of a core's die have in flight. -/
def State.dieWalks (s : State) (c : Nat) : List Walk := s.walks.filter fun w => coreDie w.core == coreDie c

/-- The walker that takes a miss: a free choice among those at rest (entry 1), the first where no cache of the die
holds a pointer, since the choice then shows nowhere. -/
def State.walkerFor (s : State) (c : Nat) : State × Nat :=
  let d := coreDie c
  let rest := (List.range Config.walkers).filter fun k => !(s.dieWalks c).any (·.walker == k)
  if s.ptrs.any fun p => p.1 / Config.walkers == d && !p.2.isEmpty then
    let s := s.tick
    (s, rest.getD (Config.pick s.fresh % rest.length) 0)
  else (s, rest.headD 0)

/-- The result of a walker's walk, with its TLB entry and its pointers held where it succeeded. -/
def State.walkBy (s : State) (c walker ctx va : Nat) : State × WalkRes :=
  match s.runWalk c walker ctx va with
  | (s, .ok e, ps) => ((s.tlbFill c e).ptrFill c walker ps, .ok e)
  | (s, .error f, _) => (s, .error f)

/-- A lane of a load that waits for a page's walk. -/
def LaneReq.waitsFor (l : LaneReq) (page : Nat) : Bool :=
  l.pa.isNone && l.fate.isNone && decide (l.va < 2 ^ 56) && l.va / 2 ^ 16 == page

/-- A walk that has failed is in flight no more: every lane that waits for it has its failure, and a later miss walks anew
(R117, R118). -/
def State.walkLost (s : State) (w : Walk) (f : WalkFail) : State :=
  let mark (t : Team) : Team := { t with out := t.out.map fun (p : OutPass) =>
    { p with lanes := p.lanes.map fun (l : LaneReq) => if l.waitsFor w.page then { l with fate := some f } else l } }
  { s with
    walks := s.walks.filter (· != w)
    teams := s.teams.map fun (p : Nat × Team) => (p.1, if s.ctxOf (p.1 / 16) = w.ctx then mark p.2 else p.2) }

/-- A miss: it joins a walk in flight for the same context and page and shares its result with all that wait for it, else
walks (R118). -/
def State.missWalk (s : State) (c ctx va : Nat) : State × WalkRes :=
  match s.walks.find? fun w => w.ctx == ctx && w.page == va / 2 ^ 16 with
  | some w => match w.res with
    | some e => (s.tlbFill c e, .ok e)
    | none =>
      match s.walkBy w.core w.walker ctx va with
      | (s, .ok e) =>
        let s := { s with walks := s.walks.map fun x => if x = w then { x with res := some e } else x }
        (if c = w.core then s else s.tlbFill c e, .ok e)
      | (s, .error f) => (s.walkLost w f, .error f)
  | none =>
    match s.walkerFor c with
    | (s, k) => s.walkBy c k ctx va

/-- The leaf that translates an address, or why there is none: a TLB entry, else what a walk ends with (R115, R118). -/
def State.findLeaf (s : State) (c ctx va : Nat) : State × WalkRes :=
  match s.tlbHit c ctx va with
  | some e => (s, .ok e)
  | none => s.missWalk c ctx va

/-- The leaf's rights for an access (R115 step 3). -/
def TlbEntry.allows (e : TlbEntry) (acc : Access) (p1 : Bool) : Bool :=
  (p1 || e.u) && (acc != .fetch || e.x) && (!(acc == .write || acc == .atomic) || e.w)

/-- Leaf rights and domain checks (R115 steps 3 and 4): the physical address, a domain address of this device's own
memory as the local one (R95), or the XFAULT word. -/
def State.leafAccess (s : State) (e : TlbEntry) (va : Nat) (acc : Access) (p1 : Bool) : Except (Cause × Word) Nat :=
  let pa := e.pa + va % 2 ^ pageBits e.ps
  let bad := xfaultWord 2 acc e.level e.ps
  if !e.allows acc p1 then .error (.permission, bad)
  else if isDomain pa && (bits pa 53 2 != 0 || domDev pa > 4607) then .error (.permission, bad)
  else if acc == .fetch && isDomain pa && s.deviceId != some (domDev pa) then .error (.permission, bad)
  else .ok (s.canon pa)

/-- What a leaf, or a failed walk, says of an access: the physical address, or the cause and the XFAULT word. -/
def State.leafAnswer (s : State) (r : WalkRes) (va : Nat) (acc : Access) (p1 : Bool) : Except (Cause × Word) Nat :=
  match r with
  | .ok e => s.leafAccess e va acc p1
  | .error f => .error (f.cause, xfaultWord f.kind acc f.level 0)

/-- Translation of one address. -/
def State.translate (s : State) (c ctx va : Nat) (acc : Access) (p1 : Bool) : State × Except (Cause × Word) Nat :=
  match s.findLeaf c ctx va with
  | (s, r) => (s, s.leafAnswer r va acc p1)

/-- A run of bytes read through the translation at home, for the core itself (R416); none where one cannot be read. -/
def State.peek (s : State) (c ctx va : Nat) (p1 : Bool) : Nat → State × Option (List Byte)
  | 0 => (s, some [])
  | n + 1 =>
    match s.translate c ctx va .read p1 with
    | (s, .error _) => (s, none)
    | (s, .ok pa) =>
      match s.route pa with
      | .local_ a =>
        let s := s.homeRead c (a / 64)
        if s.poisoned (a / 64) then (s, none)
        else match s.peek c ctx (va + 1) p1 n with
          | (s, some l) => (s, some (s.homeByte a :: l))
          | (s, none) => (s, none)
      | _ => (s, none)

/-! Scratchpad and accumulator storage (R130, R132, R133). -/

def Block.spBytes (b : Block) : Nat := bits b.rec_.part.toNat 6 6 * Config.bankBytes
def Block.accBytes (b : Block) : Nat := bits b.rec_.part.toNat 12 6 * Config.bankBytes

/-- A byte not defined at block start: zero after a clearing (R38), else free (entry 6). -/
def seedByte (seed : Option Nat) (a : Nat) : Byte :=
  match seed with
  | none => 0
  | some n => (Config.free64 (n * 2 ^ 22 + a)).setWidth 8

def Block.spad? (b : Block) (o : Nat) : Byte :=
  match PMap.get? b.spad o with
  | some x => x
  | none =>
    match PMap.get? b.lineSeed (o / 128) with
    | some n => seedByte (some n) o
    | none => seedByte b.spadSeed o

def Block.acc? (b : Block) (o : Nat) : Byte := (PMap.get? b.acc o).getD (seedByte b.accSeed o)

def Block.spadBytes (b : Block) (o n : Nat) : List Byte := (List.range n).map fun i => b.spad? (o + i)
def Block.accBytesAt (b : Block) (o n : Nat) : List Byte := (List.range n).map fun i => b.acc? (o + i)

/-- Bytes put into a map from an offset on. -/
def putBytes (m : PMap Byte) (o : Nat) : List Byte → PMap Byte
  | [] => m
  | x :: r => putBytes (PMap.set m o x) (o + 1) r

/-- The words that cannot be corrected, without those that a run of bytes writes whole (R426). -/
def mend (up : List Nat) (o n : Nat) : List Nat := up.filter fun w => decide (8 * w < o) || decide (o + n < 8 * w + 8)

def Block.spadPut (b : Block) (o : Nat) (bs : List Byte) : Block :=
  { b with spad := putBytes b.spad o bs, upSp := mend b.upSp o bs.length }
def Block.accPut (b : Block) (o : Nat) (bs : List Byte) : Block :=
  { b with acc := putBytes b.acc o bs, upAcc := mend b.upAcc o bs.length }

/-- Whether a run of bytes takes in one of some words. -/
def meets (up : List Nat) (o n : Nat) : Bool := up.any fun w => decide (8 * w < o + n) && decide (o < 8 * w + 8)

/-- What a scratchpad address reaches (Table 7.3): the pool of a core at an offset, or its trap. -/
inductive PadAt where
  | pool (core off slot : Nat)          -- slot 0: own scratchpad; k + 1: window slot k
  | trap (cause : Cause) (kind : Nat)
  deriving DecidableEq, Repr

def State.padAt (s : State) (c : Nat) (b : Block) (a : Nat) : PadAt :=
  if a < b.spBytes then .pool c a 0
  else if a < 0x80000000 then .trap .permission 2
  else if a < 0x83000000 then
    let k := (a - 0x80000000) / 0x400000
    let o := (a - 0x80000000) % 0x400000
    let m := coreQuadrant c * Config.coresPerQuadrant + k
    match b.group.bind (PMap.get? s.sgroups ·) with
    | none => .trap .pageFault 0
    | some g =>
      if g.revoked.getLsbD k then .trap .groupRevoked 0
      else if !g.joined.getLsbD k then .trap .pageFault 0
      else match s.block? m with
        | some mb => if o < mb.spBytes then .pool m o (k + 1) else .trap .permission 2
        | none => .trap .pageFault 0
  else .trap .pageFault 0

end Sys2Proof.Machine
end

