-- ==== Sys2Proof/WellFormed.lean ====
section
/-! DEFINITION. The operand-value rules of the encoded words: what makes a decoded word Illegal
Instruction at its issue although its fields are assigned (R43 to R45, R57 and the field rules of the
chapters). -/

namespace Sys2Proof

/-- A destination that is no latch (R45). -/
def Opd.notLatch : Opd → Bool
  | .e _ => false
  | _ => true

def Opd.isUni : Opd → Bool
  | .s _ => true
  | _ => false

/-- D with N = 1 must be field 63, and a latch is no destination (R45). -/
def dstOk (d : Opd) (n : Bool) : Bool := d.notLatch && (!n || d == .zero)

/-- An ATOM or CAS128 destination: a lane register or field 63 (R309, R314). -/
def Opd.atomDst : Opd → Bool
  | .v _ => true
  | .zero => true
  | _ => false

def ABW.ok (f : ABW) : Bool := dstOk f.d f.n
def AW.ok (f : AW) : Bool := dstOk f.d f.n
def AB.ok (f : AB) : Bool := dstOk f.d f.n
def A1.ok (f : A1) : Bool := dstOk f.d f.n
def ImmOp.ok (f : ImmOp) : Bool := dstOk f.d f.n
def ShOp.ok (f : ShOp) : Bool := dstOk f.d f.n
def RedF.ok (f : RedF) : Bool := dstOk f.d f.n
def DK.ok (f : DK) : Bool := dstOk f.d f.n

/-- B of DOT4.SH: the register above it is the scale register (R228). -/
def scaleBase : Opd → Bool
  | .v n => decide (n.val ≤ 46)
  | .s n => decide (n.val ≤ 6)
  | _ => false

/-- The exact forms of CVT carry no rounding mode (R225). -/
def CvtForm.exact : CvtForm → Bool
  | .f32f16 | .f32bf16 | .f32shelf8 | .f64f32 | .f64s32 => true
  | _ => false

/-- Numbers of Table 20.9 that are assigned. -/
def sysAssigned (c : BitVec 10) : Bool := decide (c.toNat ≤ 15) || (decide (32 ≤ c.toNat) && decide (c.toNat ≤ 49))

/-- MMOV sources (R256). -/
def mmovOk (a : BitVec 6) : MSrc → Bool
  | .m => decide (a.toNat ≤ 31)
  | .sd => decide (a.toNat ≤ 7)
  | .lc => decide (a.toNat ≤ 3)
  | .eng => decide (a.toNat ≤ 1)

/-- An m-register operand that is a register, not a number (R253, R254). -/
def MOp.ok (f : MOp) : Bool := f.i || decide (f.b.toNat ≤ 31)

/-- BFS and BFCH: the address set stays within m31 (R253). -/
def BfF.ok (f : BfF) : Bool := decide (f.a.toNat ≤ 28)

/-- Whether a word's operand values are legal. The events have no operand rule. -/
def Instr.legal : Instr → Bool
  | .add f | .sub f | .and f | .or f | .xor f | .andn f | .orn f | .shl f | .shr f | .sar f
  | .rol f | .min f | .max f | .minu f | .maxu f | .sext f => f.ok
  | .abs f | .neg f => f.ok
  | .addImm f | .andImm f | .orImm f | .xorImm f => f.ok
  | .shlImm f | .shrImm f | .sarImm f | .rolImm f => f.ok
  | .mul f | .div f | .divu f | .rem f | .remu f => f.ok
  | .mulh f | .mulhu f | .mad f | .mulw f | .mulwu f | .madw f | .madwu f => f.ok
  | .clz f | .popc f | .brev f => f.ok
  | .bfx f | .bfxu f | .bfi f => f.ok
  | .sel f _ => f.ok
  | .mov f => f.ok
  | .movi d _ n _ => dstOk d n
  | .lea d _ n _ => dstOk d n
  | .fadd f | .fsub f | .fmul f | .ffma f | .fmin f | .fmax f => f.ok
  | .fabs f | .fneg f => f.ok
  | .dadd f | .dsub f | .dmul f | .dfma f | .dmin f | .dmax f => f.ok
  | .dabs f | .dneg f => f.ok
  | .hfma2 f | .bfma2 f | .hadd2 f | .badd2 f | .hmul2 f | .bmul2 f => f.ok
  | .cvt f form r => f.ok && (!form.exact || r == .rn)
  | .dot4Sh f _ => f.ok && scaleBase f.b
  | .dot4I8 f | .maxe f | .scalee f => f.ok
  | .rcp f | .rsq f | .sqrt f | .ex2 f | .lg2 f | .sinpi f | .cospi f | .tanh f => f.ok
  | .lpickAt f | .lpickBack f | .lpickFwd f | .lpickMir f => f.ok
  | .qswpH f | .qswpV f | .qswpD f => f.ok
  | .pollMask f | .pollCnt f => f.ok
  | .red f | .scan f | .wred f => f.ok
  | .segred f _ => f.ok
  | .ldB f | .ldH f | .ldW f | .ldD f | .ldQ f
  | .ldcB f | .ldcH f | .ldcW f | .ldcD f | .ldcQ f => f.d.notLatch
  | .gathW f | .gathD f => f.d.notLatch
  | .ldp f => f.d.notLatch
  | .stQ f => f.d.notLatch
  | .atom f _ => f.d.atomDst && !f.n
  | .cas128 d _ b _ => d.atomDst && b.notLatch
  | .collAdd a _ | .collMin a _ | .collMax a _ => a.isUni
  | .tcopy a _ | .tgath a _ | .tscat a _ | .tfill a _ | .sgjoin a _ | .sgmap a _ => a.isUni
  | .sysr d c _ => d.notLatch && sysAssigned c
  | .sysw _ c _ => sysAssigned c
  | .bfs f => f.ok && decide (f.b.toNat ≤ 15)
  | .bfch f => f.ok && decide (1 ≤ f.b.toNat) && decide (f.b.toNat ≤ 12)
  | .bft d a _ _ _ _ => decide (d.toNat ≤ 30) && decide (a.toNat ≤ 28)
  | .sscan d a _ _ yf _ _ => decide (d.toNat ≤ 30) && decide (a.toNat ≤ 24) && yf != .acc
  | .mloop _ _ off _ => off != 0
  | .mmov _ a src _ => mmovOk a src
  | .madd f | .msub f | .mmul f | .mand f | .mor f | .mxor f | .mshl f | .mshr f
  | .mmin f | .mmax f => f.ok
  | _ => true

end Sys2Proof
end

