-- ==== Sys2Proof/Machine/Operands.lean ====
section
/-! DEFINITION. Registers, windows, latches and every operand form (R14, R42 to R47, R180 to R183,
R198, R199). -/

namespace Sys2Proof.Machine

/-! Lanes. -/

def warpOf (l : Nat) : Nat := l / 32

/-- The lanes of a mask, ascending. -/
def Team.lanesOf (t : Team) (m : LaneMask) : List Nat := (List.range t.size).filter m.getLsbD

/-- The active lanes: those of the current path. -/
def Team.active (t : Team) : List Nat := t.lanesOf t.act

def maskOf (l : List Nat) : LaneMask := l.foldl (fun m i => m ||| BitVec.shiftLeft 1 i) 0

/-- A quad has an active lane. -/
def quadActive (m : LaneMask) (l : Nat) : Bool := (List.range 4).any fun i => m.getLsbD (l / 4 * 4 + i)

/-- A helper lane that runs with the current path (R239); helper lanes run no handler (R392). -/
def Team.helps (t : Team) (l : Nat) : Bool := !t.p1 && t.helpers.getLsbD l && !t.act.getLsbD l && quadActive t.act l

/-- Lanes that compute: active and helper lanes (R198). -/
def Team.parts (t : Team) : List Nat := (List.range t.size).filter fun l => t.act.getLsbD l || t.helps l

/-- Warps with an active lane, ascending (R32). -/
def Team.warps (t : Team) : List Nat := (t.active.map warpOf).eraseDups

/-- The lowest active lane of the first non-empty warp (R44). -/
def Team.first (t : Team) : Nat := t.active.headD 0

def Team.allMask (t : Team) : LaneMask := maskOf (List.range t.size)

/-! Register reads. -/

/-- A register nothing has written: zero after a clearing (R38), else a free value (entry 4). -/
def undefReg (seed : Option Nat) (cleanAt key : Nat) : Reg :=
  match seed with
  | none => ⟨0, false⟩
  | some n =>
    let x := Config.free64 (n * 2 ^ 22 + key)
    ⟨x.setWidth 32, decide (cleanAt ≤ n) && x.getLsbD 32⟩

/-- The same of a uniform register, whose taint bit each lane has for itself. -/
def undefUni (seed : Option Nat) (cleanAt i : Nat) : UReg :=
  match seed with
  | none => ⟨0, 0⟩
  | some n =>
    let bits : LaneMask := (List.range 16).foldl (fun m k =>
      m ||| ((Config.free64 (n * 2 ^ 22 + 2 ^ 21 + 16 * i + k)).setWidth 1024 <<< (64 * k))) 0
    ⟨(Config.free64 (n * 2 ^ 22 + (2 ^ 20 + i))).setWidth 32, if cleanAt ≤ n then bits else 0⟩

/-- Bit r of a live mask. -/
def maskBit (m : List Word) (r : Nat) : Bool := (m.getD (r / 32) 0).getLsbD (r % 32)

/-- What says how an unwritten lane register reads. -/
def Team.laneSeed (t : Team) (r : Nat) : Option Nat :=
  if t.allot ≤ r then t.hSeed
  else match t.dead with
    | some (n, m) => if maskBit m r then t.vSeed else some n
    | none => t.vSeed

/-- What a lane register holds. -/
def Team.laneHeld (t : Team) (l r : Nat) : Reg :=
  match PMap.get? t.v (1024 * l + r) with
  | some x => x
  | none => undefReg (t.laneSeed r) t.cleanAt (1024 * l + r)

/-- What a uniform register holds. -/
def Team.uniHeld (t : Team) (i : Nat) : UReg :=
  match PMap.get? t.u i with
  | some x => x
  | none => undefUni (if i < 56 then t.uSeed else t.hSeed) t.cleanAt i

/-- Whether an uncovered load's destination takes in a register (R144). -/
def Uncov.covers (x : Uncov) (l : Nat) (d : Dest) : Bool :=
  match x.dest, d with
  | .lane a, .lane r => x.lanes.getLsbD l && decide (a ≤ r) && decide (r < a + x.regs)
  | .uni a, .uni r => decide (a ≤ r) && decide (r < a + x.regs)
  | _, _ => false

/-- A register as a word reads it: not defined where a load's destination is not covered (R63, entry 4). -/
def Team.laneReg (t : Team) (l r : Nat) : Reg :=
  match t.unc.find? (·.covers l (.lane r)) with
  | some x => ⟨(Config.freeRead x.seed t.look (1024 * l + r)).setWidth 32, (t.laneHeld l r).taint⟩
  | none => t.laneHeld l r

/-- The value of a uniform register as a word reads it. -/
def Team.uniVal (t : Team) (i : Nat) : Word :=
  match t.unc.find? (·.covers 0 (.uni i)) with
  | some x => (Config.freeRead x.seed t.look (2 ^ 20 + i)).setWidth 32
  | none => (t.uniHeld i).val

/-- A uniform register as a word reads it in a lane, with that lane's taint bit (R157). -/
def Team.uniReg (t : Team) (l i : Nat) : Reg := ⟨t.uniVal i, (t.uniHeld i).taint.getLsbD l⟩

def Team.flag (t : Team) (l : Nat) (k : BitVec 3) : Bool := (PMap.get? t.k (8 * l + k.toNat)).getD false

def Team.latch (t : Team) (l e : Nat) : Latch := (PMap.get? t.lat (8 * l + e)).getD ⟨0, false⟩

/-- Two registers as one 64-bit datum, low register first (R182). -/
def pairOf (lo hi : Reg) : Latch := ⟨hi.val ++ lo.val, lo.taint || hi.taint⟩

/-- The datum of a source field in a lane: 32 bits, or a pair's 64 bits. -/
def Team.read (t : Team) (pair : Bool) (l : Nat) : Opd → Latch
  | .v n =>
    let r := t.ix.toNat + n.val
    if pair then pairOf (t.laneReg l r) (t.laneReg l (r + 1))
    else let x := t.laneReg l r; ⟨x.val.setWidth 64, x.taint⟩
  | .s n =>
    let r := t.six.toNat + n.val
    if pair then pairOf (t.uniReg l r) (t.uniReg l (r + 1))
    else let x := t.uniReg l r; ⟨x.val.setWidth 64, x.taint⟩
  | .e n =>
    let x := t.latch l n.val
    if pair then x else ⟨(x.val.setWidth 32).setWidth 64, x.taint⟩
  | .zero => ⟨0, false⟩

def Team.read32 (t : Team) (l : Nat) (o : Opd) : Word := (t.read false l o).val.setWidth 32

/-- n consecutive registers of a lane or uniform field as one number, low register first. -/
def Team.readWide (t : Team) (n l : Nat) (o : Opd) : BitVec 128 :=
  let reg (i : Nat) : Word :=
    match o with
    | .v k => (t.laneReg l (t.ix.toNat + k.val + i)).val
    | .s k => t.uniVal (t.six.toNat + k.val + i)
    | .e k => if i = 0 then (t.latch l k.val).val.setWidth 32 else if i = 1 then ((t.latch l k.val).val >>> 32).setWidth 32 else 0
    | .zero => 0
  BitVec.ofNat 128 ((List.range n).foldl (fun a i => a + (reg i).toNat * 2 ^ (32 * i)) 0)

/-! Register writes. -/

/-- The destination of a field, resolved through the windows. -/
def Team.dest (t : Team) : Opd → Dest
  | .v n => .lane (t.ix.toNat + n.val)
  | .s n => .uni (t.six.toNat + n.val)
  | _ => .none

/-- Whether a poisoned mark covers a register. -/
def BadDest.covers (b : BadDest) (l : Nat) (d : Dest) (r : Nat) : Bool :=
  match b.dest, d with
  | .lane x, .lane _ => b.lane == l && decide (x ≤ r) && decide (r < x + b.regs)
  | .uni x, .uni _ => decide (x ≤ r) && decide (r < x + b.regs)
  | _, _ => false

/-- What stays marked of a destination once one of its registers has been written (R101). -/
def BadDest.cut (b : BadDest) (r : Nat) : List BadDest :=
  let part (x n : Nat) : List BadDest :=
    if n = 0 then [] else [{ b with dest := (match b.dest with | .uni _ => .uni x | _ => .lane x), regs := n }]
  match b.dest with
  | .lane x | .uni x => part x (r - x) ++ part (r + 1) (x + b.regs - (r + 1))
  | .none => []

/-- The marks left by a write of register r of a lane: a failed atomic's mark stays until a handler writes the register
(R101). -/
def Team.unmark (t : Team) (l : Nat) (d : Dest) (r : Nat) : List BadDest :=
  t.bad.flatMap fun b => if t.p1 && b.covers l d r then b.cut r else [b]

def Team.setLane (t : Team) (l r : Nat) (x : Reg) : Team :=
  { t with
    v := PMap.set t.v (1024 * l + r) x
    bad := t.unmark l (.lane r) r
    upV := t.upV.filter (· != 1024 * l + r) }

def Team.setUni (t : Team) (r : Nat) (x : UReg) : Team :=
  { t with
    u := PMap.set t.u r x
    bad := t.unmark 0 (.uni r) r
    upU := t.upU.filter (· != r) }

/-- regs registers of a destination written with a number, low register first, from lane l, whose taint bit is `taint`; a uniform
register takes the bits of every lane, `all`. -/
def Team.putDest (t : Team) (l : Nat) (d : Dest) (taint : Bool) (all : LaneMask) (x : Nat) : Nat → Team
  | 0 => t
  | n + 1 =>
    let t := t.putDest l d taint all x n
    let w : Word := BitVec.ofNat 32 (x / 2 ^ (32 * n) % 2 ^ 32)
    match d with
    | .none => t
    | .lane r => t.setLane l (r + n) ⟨w, taint⟩
    | .uni r => t.setUni (r + n) ⟨w, all⟩

/-- The same for a result that arrives later, with the privilege that its word was issued with. -/
def Team.putFor (t : Team) (p1 : Bool) (l : Nat) (d : Dest) (taint : Bool) (all : LaneMask) (x n : Nat) : Team :=
  { ({ t with p1 := p1 } : Team).putDest l d taint all x n with p1 := t.p1 }

/-- One lane's result. -/
structure LaneVal where
  lane : Nat
  val : DWord
  taint : Bool
  deriving DecidableEq, Repr

/-- The lanes whose results are tainted. -/
def taintMask (res : List LaneVal) : LaneMask := maskOf ((res.filter (·.taint)).map (·.lane))

/-- A lane instruction's results written to its destination: every lane's own register, or once for a
uniform register, from the lowest active lane (R44), with the taint bit of each lane that computed and of no other (R157,
entry 70). -/
def Team.writeDst (t : Team) (d : Opd) (n : Bool) (regs : Nat) (res : List LaneVal) : Team :=
  if n then t
  else match t.dest d with
    | .none => t
    | .lane r => res.foldl (fun t x => t.putDest x.lane (.lane r) x.taint 0 x.val.toNat regs) t
    | .uni r =>
      match res.find? fun x => x.lane == t.first with
      | some x => t.putDest x.lane (.uni r) x.taint (taintMask res) x.val.toNat regs
      | none => t

/-- The latch classes of Table 3.12, by latch number. -/
inductive Cls where
  | int | mul | sfu | xl | cvt | addr
  deriving DecidableEq, Repr

def Cls.latch : Cls → Nat
  | .int => 0 | .mul => 2 | .sfu => 3 | .xl => 4 | .cvt => 5 | .addr => 6

/-- The latches of a warp with e0 moved to e1. -/
def Team.shiftedLat (t : Team) (w : Nat) : PMap Latch :=
  (List.range 32).foldl (fun m i => PMap.set m (8 * (32 * w + i) + 1) (t.latch (32 * w + i) 0)) t.lat

/-- The latches written in the clause, with e1 of a warp written where e0 was. -/
def Team.shiftedW (t : Team) (w : Nat) : List Nat :=
  let rest := t.latW.filter (· != 8 * w + 1)
  if t.latW.contains (8 * w) then (8 * w + 1) :: rest else rest

/-- e0 moved to e1 in one warp before a new e0 is written (R46). -/
def Team.shiftE0 (t : Team) (w : Nat) : Team := { t with lat := t.shiftedLat w, latW := t.shiftedW w }

/-- The latch elements of a pass's lanes that computed nothing: not defined (R198, entry 4). -/
def Team.idleLat (t : Team) (c : Cls) (res : List LaneVal) (w : Nat) : PMap Latch :=
  ((List.range 32).map (32 * w + ·)).foldl (fun m l =>
    if res.any (·.lane == l) then m
    else
      let x := Config.free64 (2 ^ 70 + (t.look * 1024 + l) * 8 + c.latch)
      PMap.set m (8 * l + c.latch) ⟨x, x.getLsbD 63⟩) t.lat

/-- The results written to the class latch, for each pass (R45, R46). -/
def Team.writeLatch (t : Team) (c : Cls) (res : List LaneVal) : Team :=
  let ws := t.warps
  let t := if c = .int then ws.foldl Team.shiftE0 t else t
  let t := ws.foldl (fun (t : Team) w => { t with lat := t.idleLat c res w }) t
  { t with
    lat := res.foldl (fun m x => PMap.set m (8 * x.lane + c.latch) ⟨x.val, x.taint⟩) t.lat
    latW := ws.foldl (fun l w => if l.contains (8 * w + c.latch) then l else (8 * w + c.latch) :: l) t.latW }

/-- Results to the destination register and to the class latch. -/
def Team.result (t : Team) (c : Cls) (d : Opd) (n : Bool) (regs : Nat) (res : List LaneVal) : Team :=
  (t.writeDst d n regs res).writeLatch c res

/-! Operand checks (R43, R46, R60, R199). -/

/-- A use of a register field: how many registers, whether a pair must be even, whether it is read, and whether in the lowest
active lane of the first non-empty warp alone. -/
structure Use where
  opd : Opd
  regs : Nat
  even : Bool
  src : Bool
  once : Bool
  deriving DecidableEq, Repr

def src1 (o : Opd) : Use := ⟨o, 1, false, true, false⟩
def srcP (o : Opd) (pair : Bool) : Use := ⟨o, if pair then 2 else 1, pair, true, false⟩
def dstP (o : Opd) (pair : Bool) : Use := ⟨o, if pair then 2 else 1, pair, false, false⟩
def srcN (o : Opd) (n : Nat) : Use := ⟨o, n, false, true, false⟩
/-- A source that a word reads once, for what the team holds once (R44, R183, R215). -/
def srcOnce (o : Opd) : Use := ⟨o, 1, false, true, true⟩
/-- Registers checked for their bound, which the word does not read in its own lane. -/
def boundN (o : Opd) (n : Nat) : Use := ⟨o, n, false, false, false⟩
def dstN (o : Opd) (n : Nat) : Use := ⟨o, n, false, false, false⟩

/-- The lanes of the path that read a field. -/
def Team.readers (t : Team) (u : Use) : LaneMask := if u.once then maskOf [t.first] else t.act

def Team.bound (t : Team) (u : Use) : Bool :=
  match u.opd with
  | .v n =>
    let r := t.ix.toNat + n.val
    decide (r + u.regs ≤ t.allot + (if t.p1 then 16 else 0)) && (!u.even || r % 2 == 0)
  | .s n =>
    let r := t.six.toNat + n.val
    decide (r + u.regs ≤ (if t.p1 then 64 else 56)) && (!u.even || r % 2 == 0)
  | _ => true

/-- The first warp in which a source latch is not written in this clause. -/
def Team.stale (t : Team) (us : List Use) : Option Nat :=
  t.warps.find? fun w => us.any fun u =>
    match u.opd with
    | .e n => u.src && (!u.once || w == warpOf t.first) && !t.latW.contains (8 * w + n.val)
    | _ => false

/-- Whether a destination overlaps the registers a source field reads. DESIGN CHOICE (entry 27): a word that only writes the
destination of an outstanding ATOM or window LDP does not wait for it. -/
def Team.touches (t : Team) (d : Dest) (regs : Nat) (u : Use) : Bool :=
  u.src &&
  match d, u.opd with
  | .lane x, .v n => let r := t.ix.toNat + n.val; decide (x < r + u.regs) && decide (r < x + regs)
  | .uni x, .s n => let r := t.six.toNat + n.val; decide (x < r + u.regs) && decide (r < x + regs)
  | _, _ => false

/-- Registers that a window load's lane takes. -/
def WinLoad.regs (x : WinLoad) : Nat := if x.size ≤ 4 then 1 else x.size / 4

/-- The result of an atomic, or of a window LDP, has not reached one of some lanes, or a uniform register. -/
def AtomRes.owes (a : AtomRes) (act : LaneMask) : Bool :=
  match a.dest with
  | .lane _ => a.lanes.any act.getLsbD
  | _ => true
def WinLoad.owes (a : WinLoad) (act : LaneMask) : Bool :=
  match a.dest with
  | .lane _ => a.lanes.any fun x => act.getLsbD x.1
  | _ => true

/-- The interlocked results that a word waits for, by their numbers, in the lanes that read them (R63). -/
def Team.lockers (t : Team) (us : List Use) : List (Nat × LaneMask) :=
  us.flatMap fun u =>
    ((t.atoms.filter fun a => t.touches a.dest a.regs u && a.owes (t.readers u)).map fun a => (a.id, t.readers u)) ++
    (t.wld.filter fun a => t.touches a.dest a.regs u && a.owes (t.readers u)).map fun a => (a.id, t.readers u)

/-- A wait of cause lock goes on: one of its results has not arrived. -/
def Team.lockOpen (t : Team) : Bool :=
  t.lockOn.any fun k => (t.atoms.any fun a => a.id == k.1 && a.owes k.2) || t.wld.any fun a => a.id == k.1 && a.owes k.2

/-- A register of a source field fails its parity in a lane (R426). -/
def Team.parity (t : Team) (l : Nat) (o : Opd) (regs : Nat) : Bool :=
  match o with
  | .v n => t.upV.any fun k => k / 1024 == l && decide (t.ix.toNat + n.val ≤ k % 1024) && decide (k % 1024 < t.ix.toNat + n.val + regs)
  | .s n => t.upU.any fun k => decide (t.six.toNat + n.val ≤ k) && decide (k < t.six.toNat + n.val + regs)
  | _ => false

/-- The lanes of the path that read a register whose parity fails (R426). -/
def Team.upset (t : Team) (us : List Use) : List Nat :=
  t.active.filter fun l => us.any fun u => u.src && (!u.once || l == t.first) && t.parity l u.opd u.regs

/-- The window LDPs whose trap a team may take now: one that the interrupted code has issued waits until the handler is over. -/
def Team.lateNow (t : Team) : List WinLoad := t.late.filter fun a => a.p1 || !t.p1

/-- The window LDP of which a word would read a destination that it has not written, its trap being due (R426). -/
def Team.lateRead (t : Team) (us : List Use) : Option WinLoad :=
  t.lateNow.find? fun a => us.any fun u => t.touches a.dest a.regs u && a.owes (t.readers u)

/-- The failed atomics whose destinations a word reads (R101). -/
def Team.badRead (t : Team) (us : List Use) : List BadDest :=
  t.bad.filter fun b => us.any fun u => t.touches b.dest b.regs u &&
    (match b.dest with | .lane _ => (t.readers u).getLsbD b.lane | _ => true)

end Sys2Proof.Machine
end

