-- ==== Sys2Proof/Machine/CopyRows.lean ====
section
/-! DEFINITION. The geometry of copies: descriptors, rows, swizzle, the lines they keep absent
(R134, R137, R164 to R167). -/

namespace Sys2Proof.Machine

def Copy.word (c : Copy) (i : Nat) : Word := c.desc.getD i 0
def Copy.num (c : Copy) (i : Nat) : Nat := (c.word i).toNat
def Copy.ctl (c : Copy) : Nat := c.num 4
def Copy.ac (c : Copy) : Nat := bits c.ctl 0 4
def Copy.swz (c : Copy) : Nat := bits c.ctl 4 2
def Copy.ssp (c : Copy) : Bool := bit c.ctl 6
def Copy.dsp (c : Copy) : Bool := bit c.ctl 7
def Copy.isp (c : Copy) : Bool := bit c.ctl 8
def Copy.rowLen (c : Copy) : Nat := c.num 5
def Copy.strided (c : Copy) : Bool := c.kind == .tcopy || c.kind == .tfill
def Copy.n1 (c : Copy) : Nat := bits (c.num 6) 0 16
def Copy.n2 (c : Copy) : Nat := bits (c.num 6) 16 16
def Copy.n3 (c : Copy) : Nat := bits (c.num 7) 0 16
def Copy.rows (c : Copy) : Nat := if c.strided then c.n1 * c.n2 * c.n3 else bits (c.num 8) 0 16
def Copy.tRows (c : Copy) : Nat := c.num 9
def Copy.wide (c : Copy) (i : Nat) : Nat := c.num i + 2 ^ 32 * c.num (i + 1)
def Copy.src (c : Copy) : Nat := c.wide 0
def Copy.dst (c : Copy) : Nat := c.wide 2
def Copy.idxBase (c : Copy) : Nat := c.wide 6

/-- An address of a side, wrapped as the side wraps (R166). -/
def sideWrap (pad : Bool) (x : Int) : Nat := (x % (if pad then 2 ^ 32 else 2 ^ 64)).toNat

/-- A strided side's address at the indices of a row. -/
def Copy.stridedAt (c : Copy) (base : Nat) (k : Nat) (r : Nat) : Int :=
  let i1 := r % c.n1
  let i2 := r / c.n1 % c.n2
  let i3 := r / (c.n1 * c.n2)
  base + i1 * (c.word k).toInt + i2 * (c.word (k + 2)).toInt + i3 * (c.word (k + 4)).toInt

/-- The index entry of a row; 0 until its batch has been read. -/
def Copy.entry (c : Copy) (r : Nat) : Nat := ((PMap.get? c.idx r).map (·.toNat)).getD 0

/-- Row r's first source and destination address. -/
def Copy.srcAt (c : Copy) (r : Nat) : Nat :=
  match c.kind with
  | .tcopy => sideWrap c.ssp (c.stridedAt c.src 8 r)
  | .tfill => 0
  | .tgath => sideWrap c.ssp (c.src + c.entry r * c.num 10)
  | .tscat => sideWrap c.ssp (c.src + r * c.num 11)

def Copy.dstAt (c : Copy) (r : Nat) : Nat :=
  match c.kind with
  | .tcopy | .tfill => sideWrap c.dsp (c.stridedAt c.dst 9 r)
  | .tgath => sideWrap c.dsp (c.dst + r * c.num 11)
  | .tscat => sideWrap c.dsp (c.dst + c.entry r * c.num 10)

/-- The swizzled offset (R137). -/
def swizzle (mode r o : Nat) : Nat :=
  let ch := o / 16 % 8
  let s := if mode = 1 then r % 4 else if mode = 2 then r % 8 else 0
  o - 16 * ch + 16 * (ch ^^^ s)

def Copy.swzDst (c : Copy) : Bool := c.dsp
def Copy.swzSrc (c : Copy) : Bool := c.ssp && !c.dsp
def Copy.srcByte (c : Copy) (r o : Nat) : Nat :=
  sideWrap c.ssp (c.srcAt r + (if c.swzSrc then swizzle c.swz r o else o))
def Copy.dstByte (c : Copy) (r o : Nat) : Nat :=
  sideWrap c.dsp (c.dstAt r + (if c.swzDst then swizzle c.swz r o else o))

/-- Whether an indexed row has an entry out of range (R167). -/
def Copy.outOfRange (c : Copy) (r : Nat) : Bool := !c.strided && decide (c.tRows ≤ c.entry r)

def Copy.pending (c : Copy) : List Nat := (List.range c.rows).filter fun r => decide (c.base ≤ r) && !c.done.contains r

/-- The pending rows that still keep lines absent. -/
def Copy.owed (c : Copy) : List Nat := c.pending.filter fun r => !c.released.contains r

/-- The pool a scratchpad address names, by its digits alone: 0 for the own scratchpad or k + 1 for window slot k, and the
offset. -/
def padSlot (a : Nat) : Nat × Nat :=
  if a < 0x80000000 then (0, a) else ((a - 0x80000000) / 0x400000 + 1, (a - 0x80000000) % 0x400000)

/-- The lines of a run of scratchpad addresses: slot and line. -/
def linesOf (a len : Nat) : List (Nat × Nat) :=
  let p := padSlot a
  (List.range ((p.2 + len - 1) / 128 - p.2 / 128 + 1)).map fun i => (p.1, p.2 / 128 + i)

/-- The index entry of a row has been read, in this part of the copy or in an earlier one. -/
def Copy.known (c : Copy) (r : Nat) : Bool := c.strided || PMap.has c.idx r

/-- The index entry of a row has been read in this part of the copy, so that the row may issue (R167, R173, R174). -/
def Copy.read (c : Copy) (r : Nat) : Bool := c.strided || decide (r < 8 * c.batch)

/-- A row that writes nothing. -/
def Copy.silent (c : Copy) (r : Nat) : Bool := c.kind == .tscat && c.outOfRange r

/-- The scratchpad lines that some rows of a copy have to write (R134): of a TSCAT row whose entry has not been read,
all of the table's extent; of one whose entry is out of range, none. -/
def Copy.linesFrom (c : Copy) (rows : List Nat) : List (Nat × Nat) :=
  if !c.dsp || rows.isEmpty then []
  else if c.kind == .tscat then
    let open_ := rows.filter fun r => !c.known r
    let sure := rows.filter fun r => c.known r && !c.outOfRange r
    (if c.tRows = 0 || open_.isEmpty then []
     else linesOf (sideWrap true c.dst) ((c.tRows - 1) * c.num 10 + c.rowLen)) ++
    sure.flatMap fun r => linesOf (c.dstAt r) c.rowLen
  else rows.flatMap fun r => linesOf (c.dstAt r) c.rowLen

/-! A copy's pools are those of the blocks that stood in the slots when it issued, by their serial numbers: its own block's,
wherever it runs now, and the members' (R134, R174). -/

/-- The block whose pool a slot of the copy names; `own` is the copy's own block. -/
def Copy.poolOf (c : Copy) (own k : Nat) : Option Nat := if k = 0 then some own else PMap.get? c.serials (k - 1)

/-- Lines as those of blocks. -/
def Copy.owned (c : Copy) (own : Nat) (ls : List (Nat × Nat)) : List (Nat × Nat) :=
  ls.filterMap fun l => (c.poolOf own l.1).map fun n => (n, l.2)

/-- The core on which a block runs. -/
def State.coreOf (s : State) (serial : Nat) : Option Nat := (s.blocks.find? fun p => p.2.serial == serial).map (·.1)

/-- Where a scratchpad address of a copy of the block on a core lies now: core and offset. -/
def State.padPlace (s : State) (core : Nat) (c : Copy) (a : Nat) : Option (Nat × Nat) :=
  let p := padSlot a
  if p.1 = 0 then some (core, p.2)
  else ((PMap.get? c.serials (p.1 - 1)).bind s.coreOf).map fun m => (m, p.2)

/-- The lines that a fault entry of a block's team keeps absent (R136, R172): block and line. -/
def FaultEntry.lines (e : FaultEntry) (own : Nat) : List (Nat × Nat) :=
  match e.what with
  | .copy c row => c.owned own (c.linesFrom (c.owed.filter (row ≤ ·)))
  | .pass .. => []

/-- A fault entry of a team of core c keeps a line of core m absent. -/
def State.keepsLine (s : State) (c m line : Nat) (e : FaultEntry) : Bool :=
  match s.block? c, s.block? m with
  | some b, some x => (e.lines b.serial).contains (x.serial, line)
  | _, _ => false

/-- The lines that a block's copies, and its teams' fault entries, keep absent. -/
def Block.absentBy (b : Block) (tms : List Team) : List (Nat × Nat) :=
  ((b.copies.filter fun c => c.admitted || !c.counts).flatMap fun c => c.owned b.serial (c.linesFrom c.owed)) ++
  tms.flatMap fun tm => (tm.faults ++ tm.overflow).flatMap (·.lines b.serial)

/-- Every absent line: a line is absent while a copy, or a failed copy's entry, has a byte of it to write, those of saved blocks
among them. -/
def State.absentLines (s : State) : List (Nat × Nat) :=
  (s.blocks.flatMap fun p => p.2.absentBy ((List.range 16).filterMap (s.team? p.1))) ++
  s.saved.flatMap fun k => k.block.absentBy (k.teams.map (·.2))

def Block.setAbsent (b : Block) (abs : List (Nat × Nat)) : Block :=
  { b with absent := ((abs.filter (·.1 == b.serial)).map (·.2)).eraseDups }

/-- The presence bits brought up to date, saved ones with them (R134). -/
def State.refreshPresence (s : State) : State :=
  let abs := s.absentLines
  { s with
    blocks := s.blocks.map fun (p : Nat × Block) => (p.1, p.2.setAbsent abs)
    saved := s.saved.map fun (k : SavedBlock) => { k with block := k.block.setAbsent abs } }

/-- A block changed, on its core or in its slot of the save area. -/
def State.modSerial (s : State) (n : Nat) (f : Block → Block) : State :=
  let g (b : Block) : Block := if b.serial = n then f b else b
  { s with
    blocks := s.blocks.map fun (p : Nat × Block) => (p.1, g p.2)
    saved := s.saved.map fun (k : SavedBlock) => { k with block := g k.block } }

/-- The scratchpad bytes that a copy has written, each row's by the index entry it was written with: the block and the offset. -/
def Copy.bytesWritten (c : Copy) (own : Nat) : List (Option Nat × Nat) :=
  if c.dsp then c.wrote.flatMap fun w =>
    (List.range c.rowLen).map fun o => let p := padSlot ({ c with idx := [w] }.dstByte w.1 o); (c.poolOf own p.1, p.2)
  else []

/-- Lines given up with bytes unwritten: those bytes are not defined (R136, R173). -/
def State.undefLines (s : State) (c : Copy) (core : Nat) (rows : List Nat) : State :=
  let own := ((s.block? core).map (·.serial)).getD 0
  let lines := c.owned own (c.linesFrom rows)
  let kept := c.bytesWritten own
  let s := s.tick
  lines.foldl (fun s l => s.modSerial l.1 fun b =>
    { b with
      spad := b.spad.filter fun p => p.1 / 128 != l.2 || kept.contains (some l.1, p.1)
      lineSeed := PMap.set b.lineSeed l.2 s.fresh }) s

end Sys2Proof.Machine
end

