-- ==== Sys2Proof/Machine/Flags.lean ====
section
/-! DEFINITION. Lane flags, the STATUS bits and the conditions that compute them (R184, R198, R205,
R212, R216). -/

namespace Sys2Proof.Machine

/-- A flag written in each lane of a list. -/
def Team.setFlags (t : Team) (k : BitVec 3) (res : List (Nat × Bool)) : Team :=
  { t with k := res.foldl (fun m x => PMap.set m (8 * x.1 + k.toNat) x.2) t.k }

/-- The conditions of the register compare (R212), at 64 bits; 32-bit operands are extended first. -/
def condHolds (c : Cond) (w : Bool) (a b : DWord) : Bool :=
  let sa : Int := if w then a.toInt else (a.setWidth 32).toInt
  let sb : Int := if w then b.toInt else (b.setWidth 32).toInt
  let ua := if w then a.toNat else (a.setWidth 32).toNat
  let ub := if w then b.toNat else (b.setWidth 32).toNat
  match c with
  | .eq => ua == ub
  | .ne => ua != ub
  | .lt => decide (sa < sb)
  | .le => decide (sa ≤ sb)
  | .gt => decide (sb < sa)
  | .ge => decide (sb ≤ sa)
  | .ltu => decide (ua < ub)
  | .leu => decide (ua ≤ ub)
  | .gtu => decide (ub < ua)
  | .geu => decide (ub ≤ ua)

/-- The conditions of CMP immediate by code (R205). -/
def immCond (c : BitVec 3) : Cond :=
  match c.toNat with
  | 0 => .eq | 1 => .ne | 2 => .lt | 3 => .ge | 4 => .ltu | 5 => .geu | 6 => .gt | _ => .le

/-- A lane's STATUS bits (Table 11.4): bit 0 DZ, bit 1 OV. -/
def Team.status2 (t : Team) (l : Nat) : BitVec 2 := (PMap.get? t.stat l).getD 0

/-- STATUS bits set on top of what a lane holds. -/
def Team.orStatus (t : Team) (l : Nat) (x : BitVec 2) : Team :=
  if x = 0 then t else { t with stat := PMap.set t.stat l (t.status2 l ||| x) }

end Sys2Proof.Machine
end

