-- ==== Sys2Proof/Machine/Ops.lean ====
section
/-! DEFINITION. The shared operations: trace packets, reports, waits, the store queue, paths and the
divergence stack, killing a team, taking an exception and returning from one, and the issue of a word. -/

namespace Sys2Proof.Machine

/-! Trace packets (R416 to R419). -/

/-- A packet stands before another in the buffer: by cycle, then by its place in the cycle (R419). -/
def TracePkt.before (a b : TracePkt) : Bool := decide (a.cycle < b.cycle) || (a.cycle == b.cycle && decide (a.rank < b.rank))

def putPkt (p : TracePkt) : List TracePkt → List TracePkt
  | [] => [p]
  | x :: r => if p.before x then p :: x :: r else x :: putPkt p r

/-- Packets a core's buffer holds (R417). -/
def tracePkts : Nat := 64

/-- One packet more that could not be kept or written. -/
def Trace.drop (tr : Trace) : Trace := { tr with lost := min (tr.lost + 1) 0xFFFFFFFF, lostNow := tr.lostNow + 1, stale := true }

/-- The packets that the buffer holds, the one whose write is under way among them. -/
def Trace.held (tr : Trace) : Nat := tr.buf.length + bnum (tr.waits != 0)

/-- One packet into the core's buffer at a place of its cycle, or counted as lost (R417, R419). -/
def State.emitAt (s : State) (c rank ty w : Nat) : State :=
  let tr := (s.core c).trace
  if tr.on && bit tr.types.toNat ty then
    s.modCore c fun x =>
      { x with trace :=
        if tr.held < tracePkts then { tr with buf := putPkt ⟨s.cycle, rank, BitVec.ofNat 64 (w * 16 + ty)⟩ tr.buf }
        else { tr.drop with lostDue := true } }
  else s

/-- A packet of a team, at the place of the team's home datapath (R419). -/
def State.emit (s : State) (c ty w : Nat) : State := s.emitAt c (w % 4) ty w

/-- The place of the matrix sequencer's packets in a cycle (R419). -/
def seqRank : Nat := 4

/-- A packet that carries a code address, after a PCBASE packet where one is due: both are written, or neither
type is enabled (R418). -/
def State.emitPc (s : State) (c t ty : Nat) (pc : DWord) (w : Nat) : State :=
  let hi := bits pc.toNat 26 30
  let tr := (s.core c).trace
  if tr.on && bit tr.types.toNat ty && PMap.get? tr.pcbase t != some hi then
    let s := s.emit c 9 (t + 16 * hi)
    (if bit tr.types.toNat 9 && tr.held < tracePkts then
      s.modCore c fun x => { x with trace := { x.trace with pcbase := PMap.set x.trace.pcbase t hi } }
     else s).emit c ty w
  else s.emit c ty w

/-- PC[25:2], as packets carry it. -/
def pcField (pc : DWord) : Nat := bits pc.toNat 2 24

def warpMask (m : LaneMask) (w : Nat) : Nat := bits m.toNat (32 * w) 32

def Team.wordMask (t : Team) : Nat := t.warps.foldl (fun a w => a + 2 ^ w) 0

/-- BRANCH packets, one for each non-empty warp of the path (Table 24.2). -/
def State.emitBranch (s : State) (c t : Nat) (tm : Team) (m : LaneMask) (kind : Nat) : State :=
  tm.warps.foldl (fun s w => s.emit c 2 (t + 16 * (w + 32 * (warpMask m w + 2 ^ 32 * kind)))) s

def State.emitRefill (s : State) (c t l ev : Nat) (iter : Word) : State :=
  s.emit c 3 (t + 16 * (l + 1024 * (ev + 4 * iter.toNat)))

/-- Trap codes (Table 20.1). -/
def Cause.code : Cause → Nat
  | .illegalInstruction => 1 | .staleLatch => 2 | .registerBound => 3 | .misaligned => 4
  | .nonCanonical => 5 | .pageFault => 6 | .permission => 7 | .poisonedData => 8
  | .remoteTimeout => 9 | .landingPad => 10 | .divergenceOverflow => 11 | .barrierMismatch => 12
  | .dz => 13 | .ov => 14 | .groupRevoked => 15 | .engineBound => 16 | .watchdog => 17 | .trap => 18

/-- Codes of scheduler-visible waits (Table 19.4). -/
def WaitCause.code : WaitCause → Nat
  | .none => 0 | .counter => 1 | .all => 2 | .presence => 3 | .lock => 4 | .barrier => 5
  | .range => 6 | .replay => 7 | .fence => 8 | .xinv => 9 | .seqTrap => 10 | .exit => 11

/-- The wait word (Table 19.2). -/
def WaitWord.word (w : WaitWord) : Nat := w.cause.code + 16 * (w.argA % 64) + 65536 * (w.argB % 65536)

def noWait : WaitWord := ⟨.none, 0, 0⟩

def State.emitTrap (s : State) (c t : Nat) (cause : Cause) (defer : Bool) (ev : Nat) (pc : DWord) : State :=
  s.emitPc c t 4 pc (t + 16 * (cause.code + 256 * (bnum defer + 2 * (ev + 8 * pcField pc))))

/-- A WAIT packet; one of cause 10 stands in the sequencer's place. -/
def State.emitWait (s : State) (c t : Nat) (w : WaitWord) (released : Bool) : State :=
  s.emitAt c (if w.cause = .seqTrap then seqRank else t % 4) 5 (t + 16 * (w.word + 2 ^ 32 * bnum released))

/-! Reports to the host (R331, R404). -/

def State.send (s : State) (m : OutMsg) : State := { s with outbox := s.outbox ++ [m] }

/-- The ports of a base die: five or four of the eighteen (R26). -/
def diePorts (die : Nat) : List Nat := (List.range 18).filter fun p => p * 4 / 18 == die

/-- Some base die has a port with its link: every message comes and goes over them (R1, R78). -/
def State.linked (s : State) : Bool := (List.range 4).any fun d => (diePorts d).any fun p => !s.portsDown.contains p

/-- The words of a KIND 1 report (Tables 20.10 and 20.11). -/
def killWords (s : State) (c t ctx how : Nat) (cause : Cause) (gen : Word) (fpc : DWord) (faddr : Nat) : List Word :=
  [0, 1, BitVec.ofNat 32 (ctx + 256 * (c + 256 * (t + 16 * (how + 16 * cause.code)))), gen,
   fpc.setWidth 32, (fpc >>> 32).setWidth 32, BitVec.ofNat 32 faddr, BitVec.ofNat 32 (faddr / 2 ^ 32),
   BitVec.ofNat 32 (s.deviceId.getD 0), 0]

/-- A kill report: on the LAUNCH's session at the root, forwarded to the root elsewhere (R363). -/
def State.reportKill (s : State) (c t how : Nat) (cause : Cause) (fpc : DWord) (faddr : Nat) : State :=
  match s.block? c with
  | none => s
  | some b =>
    match PMap.get? s.launches b.launch with
    | none => s
    | some l =>
      let ws := killWords s c t b.ctx how cause l.gen fpc faddr
      if l.rank = 0 then s.send (.report l.sess 1 l.hdr.ctx.toNat l.hdr.seq l.hdr.tag ws)
      else s.send (.killReport ((l.parties.headD (0, 0)).1) ((l.parties.headD (0, 0)).2) l.gen ws)

def State.countKilled (s : State) (launch : Nat) : State :=
  { s with launches := PMap.modify s.launches launch fun l => { l with killed := l.killed + 1 } }

/-! The store queue and the core's store order (R305 to R307). -/

/-- Whether a write goes to another device or is refused by this one. -/
def State.isRemote (s : State) (pa : Nat) : Bool :=
  match s.route pa with
  | .local_ _ => false
  | _ => true

/-- A store pass's lanes as writes of their sectors, one request a sector for local addresses (R126), one a
lane for others; a higher lane's byte replaces a lower lane's. -/
def State.storeWrites (s : State) (t ctx seq : Nat) (ls : List LaneStore) : List HomeWrite :=
  let loc := ls.filter fun x => !s.isRemote x.pa
  let rem := ls.filter fun x => s.isRemote x.pa
  let secs := (loc.map fun x => x.pa / 64).eraseDups
  (secs.map fun sec =>
    let mine := loc.filter fun x => x.pa / 64 == sec
    ⟨sec, mine.foldl (fun m x => putBytes m (x.pa % 64) x.bytes) [], seq, t,
      (mine.headD ⟨0, 0, 0, []⟩).lane, (mine.headD ⟨0, 0, 0, []⟩).va, mine.map (·.va), ctx, s.fresh⟩) ++
  rem.map fun x => ⟨x.pa / 64, putBytes [] (x.pa % 64) x.bytes, seq, t, x.lane, x.va, [x.va], ctx, s.fresh⟩

/-- The sector of a local write, as a physical sector. -/
def State.localSector (s : State) (w : HomeWrite) : Option Nat :=
  match s.route (64 * w.sector) with
  | .local_ pa => some (pa / 64)
  | _ => none

/-- A local write applied at its home, the core's own L1 copy with it (R302, R127). Any other core that holds
the line has it recalled (R317). -/
def State.applyWrite (s : State) (c : Nat) (w : HomeWrite) : State :=
  match s.localSector w with
  | none => s
  | some sec =>
    ((((s.touchRow (64 * sec)).recallFor c (sec / 2)).homeApply sec w.bytes).l1Update c sec w.bytes).hbmAsk sec true

/-- Every local write of the core's order applied, in order; the remote ones stay. -/
def State.flushOrder (s : State) (c : Nat) : State :=
  let ws := (s.core c).order
  let s := ws.foldl (fun s w => s.applyWrite c w) s
  s.modCore c fun x => { x with order := ws.filter fun w => (s.localSector w).isNone }

/-- The local writes of one sector applied, in order. -/
def State.flushSector (s : State) (c sec : Nat) : State :=
  let ws := (s.core c).order
  let mine := ws.filter fun w => s.localSector w == some sec
  let s := mine.foldl (fun s w => s.applyWrite c w) s
  s.modCore c fun x => { x with order := ws.filter fun w => s.localSector w != some sec }

/-- Table 16.4: the new value, or none where a cas writes nothing. -/
def atomNew (o : AtomOp) (wide : Bool) (x y d : Nat) : Option Nat :=
  let n := if wide then 64 else 32
  let sx : Int := (BitVec.ofNat n x).toInt
  let sy : Int := (BitVec.ofNat n y).toInt
  match o with
  | .add => some ((x + y) % 2 ^ n)
  | .min => some (if sy < sx then y else x)
  | .max => some (if sx < sy then y else x)
  | .and => some (x &&& y)
  | .or => some (x ||| y)
  | .xor => some (x ^^^ y)
  | .xchg => some y
  | .cas => if x = d then some y else none

def AtomWork.bytes : AtomWork → Nat
  | .op _ wide => if wide then 8 else 4
  | .cas128 => 16

/-- One read-modify-write at its home (R97, R310, R315): the old value, and the bytes written where it writes;
none where the sector is poisoned, and nothing changes (R313). -/
def State.rmwHome (s : State) (w : AtomWork) (pa y cmp : Nat) : State × Option (Nat × List Byte) :=
  let s := s.homeFill (pa / 64)
  if s.poisoned (pa / 64) then (s, none)
  else
    let n := w.bytes
    let x := s.homeNat pa n
    let new := match w with
      | .op o wide => atomNew o wide x y cmp
      | .cas128 => if x = cmp then some y else none
    match new with
    | none => (s, some (x, []))
    | some v =>
      let bs := natLe n (v % 2 ^ (8 * n))
      ((sectorParts pa bs).foldl (fun s p => s.hbmAsk p.1 true) (s.homeWrite pa bs), some (x, bs))

/-- A core's local read-modify-write: its own earlier stores of the sector first, its L1 copy after. -/
def State.rmw (s : State) (c : Nat) (w : AtomWork) (pa y cmp : Nat) : State × Option Nat :=
  match (s.flushSector c (pa / 64)).rmwHome w pa y cmp with
  | (s, none) => (s, none)
  | (s, some (x, bs)) => ((sectorParts pa bs).foldl (fun s p => s.l1Update c p.1 p.2) s, some x)

/-- Another core has an atomic to a line at the head of a team's queue: a home-performed atomic of the core may find it
queued ahead of its own (R318). -/
def State.rivalAtomic (s : State) (c line : Nat) : Bool :=
  s.teams.any fun p => p.1 / 16 != c && (match p.2.sq with
    | ⟨_, .atomic _ _ _ ls, _, _, _, _⟩ :: _ => ls.any fun x => x.pa / 128 == line
    | _ => false)

/-- Where a local atomic is performed (R317, R318): with a counter below 2 in a held copy, which takes or
finds the line, else at the home, which recalls the line from its holder. Which of two queued atomics the home has
ahead is a free choice (entry 1), and so is the line that gives way where 16 are held: DESIGN CHOICE (entry 11). DESIGN CHOICE
(entry 75): an ARED that finds its line held by its own core leaves it held, and lowers the counter as for a line found held. -/
def State.placeAtomic (s : State) (c pa : Nat) (ared : Bool) : State :=
  let line := pa / 128
  let i := predIndex line
  let x := s.core c
  let p := (PMap.get? x.pred i).getD 0
  let s := s.recallFor c line
  if PMap.has x.held line then
    s.modCore c fun x => { x with pred := PMap.set x.pred i (if p = 0 then 0 else p - 1) }
  else if ared || 2 ≤ p.toNat then
    if s.rivalAtomic c line then
      let s := s.tick
      if Config.pick s.fresh % 2 = 1 then s.modCore c fun x => x.contend line else s
    else s
  else if x.held.length < Config.heldLines then s.modCore c fun x => { x with held := PMap.set x.held line s.cycle }
  else
    let s := s.tick
    let out := ((x.held[Config.pick s.fresh % x.held.length]?).map (·.1)).getD line
    s.modCore c fun x => { x with held := PMap.set (PMap.del x.held out) line s.cycle }

/-- The scope of a release whose points are those of R100. -/
def wideScope : Option Scope → Bool
  | some .domain | some .system => true
  | _ => false

/-- A store or ARED of the team has failed (R100). Where a release at DOMAIN or SYSTEM scope stands behind it in the queue, that
release is the one that waits for it. -/
def Team.storeFails (t : Team) (seq : Nat) (cause : Cause) (va : Nat) (mask : LaneMask) : Team :=
  let rel := t.sq.find? fun e => decide (seq < e.seq) && wideScope e.rel
  { t with failed := t.failed ++ [FailRec.mk cause va mask (rel.map fun e => (e.pc, e.p1))] }

/-- A failure of an atomic's lane: a record of R100 for ARED, else a bad lane of its result (R101). -/
def Team.atomFail (t : Team) (id seq lane : Nat) (ret : Bool) (cause : Cause) (va : Nat) : Team :=
  if ret then
    { t with atoms := t.atoms.map fun a =>
      if a.id = id then { a with bad := a.bad ++ [(lane, cause, va)] } else a }
  else t.storeFails seq cause va (maskOf [lane])

def Team.atomGot (t : Team) (id lane x : Nat) : Team :=
  { t with atoms := t.atoms.map fun a =>
    if a.id = id then { a with got := a.got ++ [(lane, BitVec.ofNat 128 x)] } else a }

/-- Bytes a remote request touches. -/
def opSize : RemoteOp → Nat
  | .read n => n
  | .write bs => bs.length
  | .atom _ wide _ _ _ => if wide then 8 else 4
  | .cas128 .. => 16

/-- A remote request sent, or failed at once where its owner is unreachable (R98). -/
def State.request (s : State) (dev ctx lpa va : Nat) (what : RemoteFor) (op : RemoteOp) : State × Bool :=
  if s.unreachable.contains dev then (s, false)
  else
    let id := s.fresh
    let s := s.tick
    (({ s with remote := s.remote ++ [RemoteReq.mk id dev ctx lpa va (opSize op) s.cycle what] }).send (.request dev id (s.deviceId.getD 0) ctx lpa op), true)

/-- The core a remote request belongs to. -/
def RemoteFor.core : RemoteFor → Nat
  | .load c _ _ _ | .store c _ _ _ _ _ | .atom c _ _ _ _ _ | .copyRead c _ _ _ | .copyIndex c _ _
  | .copyWrite c _ _ | .trace c _ _ => c

/-- The team to which a failure is still reported. -/
def teamAlive (t : Nat) : Bool := decide (t < 16)

/-- A base die's fabric engine has no request out to a sector of a remote run (R97). -/
def State.rangeFree (s : State) (c dev lpa len : Nat) : Bool :=
  !s.remote.any fun r => r.dev == dev && coreDie r.what.core == coreDie c &&
    decide (r.addr / 64 ≤ (lpa + len - 1) / 64) && decide (lpa / 64 ≤ (r.addr + r.len - 1) / 64)

/-- The same for one sector. -/
def State.sectorFree (s : State) (c dev lpa : Nat) : Bool := s.rangeFree c dev lpa 1

/-- The scope of an acquire discards the L1 (R128). -/
def acquireDrops : Option Scope → Bool
  | some .core => false
  | some _ => true
  | none => false

/-- An access of a team that every store in the core's order precedes has been performed, a load or an acquire: those stores
precede the team's copies and COLLs after it, copies that wait to start among them (R169, R306, R327, R415, Table 25.2). DEDUCED
(entry 33): after an acquire one that is there without a release too. -/
def State.acquired (s : State) (c t seq : Nat) : State :=
  let n := s.fresh + 1
  let wait (x : Copy) : Copy := if x.team == t && decide (seq < x.seq) && !x.started then { x with mark := n } else x
  (s.modTeam c t fun tm => { tm with sync := n }).modBlock c fun b => { b with copies := b.copies.map wait }

/-- An acquire performed, with what it discards (R128). -/
def State.acquire (s : State) (c t seq : Nat) (acq : Option Scope) : State :=
  let s := if acq.isSome then s.acquired c t seq else s
  if acquireDrops acq then s.l1Drop c else s

/-- An atomic whose last lane has its outcome acts as the acquire it is (R128, R312, R326). -/
def State.atomAnswered (s : State) (c t id : Nat) : State :=
  match (s.team? c t).bind fun tm => tm.atoms.find? (·.id == id) with
  | some a =>
    if a.lanes.all fun l => a.got.any (·.1 == l) || a.bad.any (·.1 == l) then s.acquire c t a.seq a.acq else s
  | none => s

/-- What has become of a lane of an atomic told to its team; nobody is told of a team that has ended. -/
def State.atomOut (s : State) (c t id : Nat) (f : Team → Team) : State :=
  if teamAlive t then (s.modTeam c t f).atomAnswered c t id else s

/-- One lane of an atomic entry performed or sent, in the name of a context. -/
def State.atomLane (s : State) (c t ctx id seq : Nat) (w : AtomWork) (ret : Bool) (x : AtomLane) : State :=
  match s.route x.pa with
  | .local_ pa =>
    let s := s.placeAtomic c pa (!ret)
    match s.rmw c w pa x.y.toNat x.cmp.toNat with
    | (s, some old) => if ret then s.atomOut c t id fun tm => tm.atomGot id x.lane old else s
    | (s, none) => s.atomOut c t id fun tm => tm.atomFail id seq x.lane ret .poisonedData x.va
  | .refused => s.atomOut c t id fun tm => tm.atomFail id seq x.lane ret .permission x.va
  | .remote dev lpa =>
    let op : RemoteOp := match w with
      | .op o wide => .atom o wide (x.y.setWidth 64) (x.cmp.setWidth 64) ret
      | .cas128 => .cas128 x.cmp x.y
    match s.request dev ctx lpa x.va (.atom c t id x.lane seq ret) op with
    | (s, true) => s
    | (s, false) => s.atomOut c t id fun tm => tm.atomFail id seq x.lane ret .remoteTimeout x.va

/-- Every earlier load of the team has been performed, in its helper lanes too (R147), window LDPs with them (R305, R140). A lane that has failed
counts as performed: DESIGN CHOICE (entry 31), its replay follows the stores that left meanwhile. -/
def Team.loadsDone (t : Team) (seq : Nat) : Bool :=
  !(t.out.any fun p => decide (p.seq < seq) && !p.lanes.isEmpty) && !t.wld.any fun w => decide (w.seq < seq)

/-- A FENCE of the team stands in its queue and holds later accesses (R320). -/
def Team.fenced (t : Team) : Bool := t.sq.any fun e => match e.work with | .fence _ => true | _ => false

/-- No remote atomic of the team is out. -/
def State.noRemoteAtom (s : State) (c t : Nat) : Bool :=
  !s.remote.any fun r => match r.what with | .atom c' t' .. => c' == c && t' == t | _ => false

/-- No store or ARED of the core to another device is unanswered (R307). -/
def State.remoteQuiet (s : State) (c : Nat) : Bool :=
  !(s.remote.any fun r => match r.what with
      | .store c' .. => c' == c
      | .atom c' .. => c' == c
      | _ => false) &&
  !(s.core c).order.any fun w => (s.localSector w).isNone

/-- The conditions of R307 for a release at a scope, the queue's own order apart. -/
def State.releaseOk (s : State) (c : Nat) : Scope → Bool
  | .core => true
  | .die | .device => (s.core c).order.all fun w => (s.localSector w).isNone
  | .domain | .system => (s.core c).order.isEmpty && s.remoteQuiet c

/-- An arrival at a barrier (R374): the C-th completes the phase. -/
def Barrier.arrive (b : Barrier) : Barrier :=
  if b.arrived + 1 ≥ b.count then { b with arrived := 0, phase := b.phase + 1 } else { b with arrived := b.arrived + 1 }

/-- A GRID barrier's key: the launch and the number. -/
def gridKey (launch nb : Nat) : Nat := launch * 64 + nb

/-- The launch's other participants. -/
def Launch.others (l : Launch) : List (Nat × Nat) := ((List.range l.parties.length).zip l.parties).filterMap fun p =>
  if p.1 = l.rank then none else some p.2

/-- An arrival at barrier nb from a core, with the fabric messages of a GRID barrier (R373, R374). -/
def State.barrierArrive (s : State) (c nb : Nat) : State :=
  match s.block? c with
  | none => s
  | some b =>
    match PMap.get? b.bars nb with
    | none => s
    | some x =>
      if x.scope = .grid then
        match PMap.get? s.launches b.launch with
        | none => s
        | some l =>
          let s := { s with grid := PMap.modify s.grid (gridKey b.launch nb) Barrier.arrive }
          l.others.foldl (fun s p => s.send (.gridArrive p.1 p.2 l.gen nb)) s
      else s.modBlock c fun b => { b with bars := PMap.modify b.bars nb Barrier.arrive }

/-- The barrier state a core sees. -/
def State.barrier? (s : State) (c nb : Nat) : Option Barrier :=
  match s.block? c with
  | none => none
  | some b =>
    match PMap.get? b.bars nb with
    | none => none
    | some x => if x.scope = .grid then PMap.get? s.grid (gridKey b.launch nb) else some x

/-- What an entry does as it leaves its queue, in the name of a team and a context. -/
def State.perform (s : State) (c t ctx : Nat) (e : SqEntry) : State :=
  match e.work with
  | .store ls => let s := s.tick; s.modCore c fun x => { x with order := x.order ++ s.storeWrites t ctx e.seq ls }
  | .window ls => ls.foldl (fun s x => s.modBlock (x.pa / 2 ^ 32) fun b => b.spadPut (x.pa % 2 ^ 32) x.bytes) s
  | .atomic id w ret ls => ls.foldl (fun s x => s.atomLane c t ctx id e.seq w ret x) s
  | .fence _ => s
  | .barrier nb =>
    let p := ((s.barrier? c nb).map (·.phase)).getD 0
    (s.modTeam c t fun tm => { tm with pend := PMap.set tm.pend nb p }).barrierArrive c nb

/-- An earlier store of the core to a sector of another device has still to be sent (R97, R306). -/
def State.storeAhead (s : State) (c pa : Nat) : Bool := (s.core c).order.any fun w => w.sector == pa / 64

/-! Loads of the core in their order. -/

def overlap (a n b m : Nat) : Bool := decide (a < b + m) && decide (b < a + n)

/-- Whether two lanes may touch one byte: by physical address, which names a byte of this device once (R95), else by the
offset in the smallest page. -/
def mayMeet (a : LaneReq) (n : Nat) (b : LaneReq) (m : Nat) : Bool :=
  match a.pa, b.pa with
  | some x, some y => overlap x n y m
  | _, _ => overlap (a.va % 2 ^ 16) n (b.va % 2 ^ 16) m

/-- Nothing older of the team holds the lane back, helper lanes' loads among them (R147, R149, R150, R158, R320). -/
def Team.mayLand (t : Team) (p : OutPass) (l : LaneReq) : Bool :=
  let older := t.out.filter fun q => decide (q.seq < p.seq)
  !(older.any fun q => q.lanes.any fun x =>
    (q.acq.isSome || (l.dep && q.consume && x.lane == l.lane) || mayMeet x q.size l p.size)) &&
  !(t.atoms.any fun a => decide (a.seq < p.seq) && a.acq.isSome) &&
  !(t.sq.any fun e => decide (e.seq < p.seq) && (match e.work with
    | .fence _ => true
    | .atomic _ k _ ls => e.acq.isSome || ls.any fun x => match l.pa with
        | some pa => overlap x.pa k.bytes pa p.size
        | none => true
    | _ => e.acq.isSome))

/-- A lane may reach the remote sector of an address. DESIGN CHOICE (entry 78): before it is translated, as far as its offset in the
smallest page says. -/
def LaneReq.nears (x : LaneReq) (va pa : Nat) : Bool :=
  match x.pa with
  | some q => q / 64 == pa / 64
  | none => x.va % 2 ^ 16 / 64 == va % 2 ^ 16 / 64

/-- No load lane of the core that was issued before this one has still to send its request to the same remote sector: one
core's accesses to one remote sector go in issue order (Table 25.3, R97). -/
def State.firstTo (s : State) (c : Nat) (p : OutPass) (l : LaneReq) (pa : Nat) : Bool :=
  (List.range 16).all fun t => match s.team? c t with
    | none => true
    | some tm => tm.out.all fun q => q.lanes.all fun x =>
      !(decide (q.id < p.id) || (q.id == p.id && decide (x.lane < l.lane))) || x.sent || !x.nears l.va pa

/-- The team's own stores and atomics to a remote sector, and the core's stores that had entered its order before the load was
issued, have been performed before the load of it (R97, R149, Table 25.3). -/
def State.ownRemoteDone (s : State) (c t : Nat) (tm : Team) (p : OutPass) (pa : Nat) : Bool :=
  !(tm.sq.any fun e => decide (e.seq < p.seq) && (match e.work with
    | .store ls => ls.any fun x => x.pa / 64 == pa / 64
    | .atomic _ _ _ ls => ls.any fun x => x.pa / 64 == pa / 64
    | _ => false)) &&
  !(s.core c).order.any fun w => w.sector == pa / 64 && (decide (w.stamp < p.id) || (w.team == t && decide (w.seq < p.seq)))

/-- A load lane may send its request to a remote sector, as far as the accesses before it say. -/
def State.sendable (s : State) (c t : Nat) (tm : Team) (p : OutPass) (l : LaneReq) (pa : Nat) : Bool :=
  tm.mayLand p l && s.ownRemoteDone c t tm p pa && s.firstTo c p l pa

/-- A load of another team of the core, issued before a store entered the core's order or before an atomic was issued, may send its
request to the same remote sector: it goes first (R97, Table 25.3). DESIGN CHOICE (entry 78): one that other accesses hold back does
not hold the store. -/
def State.loadAhead (s : State) (c t n va pa : Nat) : Bool :=
  (List.range 16).any fun u => u != t && (match s.team? c u with
    | none => false
    | some tm => tm.out.any fun q => decide (q.id < n) && q.lanes.any fun x => !x.sent && x.nears va pa && s.sendable c u tm q x pa)

/-- Whether a queue's first entry may leave now, its team's loads apart (R305, R307). -/
def State.mayGo (s : State) (c t : Nat) (e : SqEntry) : Bool :=
  s.noRemoteAtom c t &&
  (match e.rel with | none => true | some sc => s.releaseOk c sc) &&
  (match e.work with
   | .atomic id _ _ ls => ls.all fun x => match s.route x.pa with
      | .remote dev lpa => s.sectorFree c dev lpa && ls.length == 1 && !s.storeAhead c x.pa && !s.loadAhead c t id x.va x.pa
      | _ => true
   | _ => true)

/-- Whether a queue's first entry may leave now (R305, R307). -/
def State.mayLeave (s : State) (c t : Nat) (tm : Team) (e : SqEntry) : Bool := tm.loadsDone e.seq && s.mayGo c t e

/-- The acquire that an entry is as it leaves; an ATOM or CAS128 is one with its last lane's outcome (R128, R312). -/
def State.acqOf (s : State) (e : SqEntry) : Option Scope :=
  match e.work with
  | .atomic _ _ ret ls => if ret || ls.any fun x => s.isRemote x.pa then none else e.acq
  | _ => e.acq

/-- The part of an entry that leaves first, and what stays: an atomic with remote lanes is performed a lane at a time
(R311). -/
def State.headPart (s : State) (e : SqEntry) : SqEntry × List SqEntry :=
  match e.work with
  | .atomic id w ret (x :: y :: more) =>
    if (x :: y :: more).any fun l => s.isRemote l.pa then
      ({ e with work := .atomic id w ret [x] }, [{ e with rel := none, work := .atomic id w ret (y :: more) }])
    else (e, [])
  | _ => (e, [])

/-- The first entry of a team's queue leaves. -/
def State.leave (s : State) (c t : Nat) : Option State :=
  match s.team? c t with
  | none => none
  | some tm =>
    match tm.sq with
    | [] => none
    | e :: rest =>
      let p := s.headPart e
      if s.mayLeave c t tm p.1 then
        let s' := (s.perform c t (s.ctxOf c) p.1).modTeam c t fun tm => { tm with sq := p.2 ++ rest }
        some (if p.2.isEmpty then s'.acquire c t e.seq (s.acqOf e) else s')
      else none

/-- Entries leave while they can, local writes applied where a release asks it. -/
def State.drainGo (s : State) (c t : Nat) : Nat → State
  | 0 => s
  | n + 1 =>
    match s.leave c t with
    | some s => s.drainGo c t n
    | none =>
      match (s.flushOrder c).leave c t with
      | some s => s.drainGo c t n
      | none => s

def State.sqEmpty (s : State) (c t : Nat) : Bool := ((s.team? c t).map fun tm => tm.sq.isEmpty).getD true

/-- The queue emptied now; none where it has to wait for a load, a remote atomic or a remote completion. -/
def State.drain (s : State) (c t n : Nat) : Option State :=
  let s := s.drainGo c t n
  if s.sqEmpty c t then some s else none

/-- Lanes that a queue can hold, the moves that empty it at most. -/
def drainFuel : Nat := 64 * 32 + 64

/-- The queues of all teams of a block emptied now, before a trap that ends them all (R330, R278); none where one has to
wait. -/
def State.drainBlock (s : State) (c : Nat) : Option State :=
  (List.range 16).foldl (fun (o : Option State) t =>
    o.bind fun s => if (s.team? c t).isSome then s.drain c t drainFuel else some s) (some s)

/-- An entry acts on the memory of some device, and so outlives its block: arrivals and window stores do not. -/
def SqEntry.outlives (e : SqEntry) : Bool :=
  match e.work with
  | .barrier _ | .window _ => false
  | _ => true

/-- What a team that ends leaves in its queue (R411, R93): entries leave while they can; the rest leave later in their
order, by the rules of the queue, under a number of their own, which no team has. -/
def State.leaveQueue (s : State) (c t id : Nat) : State :=
  let s := s.drainGo c t drainFuel
  let sq := ((s.team? c t).map fun tm => tm.sq.filter SqEntry.outlives).getD []
  let s := if sq.isEmpty then s else
    let ctx := s.ctxOf c
    s.modCore c fun x => { x with left := x.left ++ [LeftQueue.mk id ctx sq] }
  s.modTeam c t fun tm => { tm with sq := [] }

/-- The first entry of the k-th queue that ended teams have left on a core leaves. -/
def State.leaveLeft (s : State) (c k : Nat) : State :=
  match (s.core c).left[k]? with
  | none => s
  | some q =>
    let put (l : List SqEntry) (s : State) : State := s.modCore c fun x =>
      { x with left := x.left.filterMap fun (y : LeftQueue) => if y.team = q.team then (if l.isEmpty then none else some { y with sq := l }) else some y }
    match q.sq with
    | [] => put [] s
    | e :: rest =>
      let p := s.headPart e
      if s.mayGo c q.team p.1 then put (p.2 ++ rest) (s.perform c q.team q.ctx p.1) else s

/-! Waits (R372). -/

def Team.acv (t : Team) (a : Nat) : Nat := ((PMap.get? t.ac a).map (·.toNat)).getD 0

/-- A count (R142): 0xFFFF stays. -/
def Team.bump (t : Team) (a n : Nat) : Team :=
  { t with ac := PMap.set t.ac a (BitVec.ofNat 16 (min (t.acv a + n) 0xFFFF)) }

def State.teamCopies (s : State) (c t : Nat) : List Copy :=
  (((s.block? c).map (·.copies)).getD []).filter (·.team == t)

/-- No store of the team to another device, and no ARED, is queued or unanswered: a queued ARED may still find a
poisoned sector (R100, R313). -/
def State.teamRemoteQuiet (s : State) (c t : Nat) (tm : Team) : Bool :=
  !(s.remote.any fun r => match r.what with
      | .store c' t' .. => c' == c && t' == t
      | .atom c' t' _ _ _ ret => c' == c && t' == t && !ret
      | _ => false) &&
  !((s.core c).order.any fun w => w.team == t && (s.localSector w).isNone) &&
  !tm.sq.any fun e => match e.work with
      | .store ls => ls.any fun x => s.isRemote x.pa
      | .atomic _ _ false _ => true
      | _ => false

/-- Every pass has arrived. -/
def Team.passesDone (t : Team) : Bool := !t.out.any fun p => p.lanes.any fun l => !l.helper

/-- What WAITALL waits for (R154, R324). -/
def State.allDone (s : State) (c t : Nat) (tm : Team) : Bool :=
  tm.passesDone && (s.teamCopies c t).isEmpty && tm.atoms.isEmpty && tm.colls.isEmpty

/-- What EXIT waits for (R346); here the store queue too (entry 24). -/
def State.exitReady (s : State) (c t : Nat) (tm : Team) : Bool :=
  s.allDone c t tm && tm.wld.isEmpty && s.teamRemoteQuiet c t tm && tm.sq.isEmpty

/-- An arrival of the team at a barrier stands in its queue. -/
def Team.owes (t : Team) (nb : Nat) : Bool :=
  t.sq.any fun e => match e.work with | .barrier n => n == nb | _ => false

/-- The team's pending arrival belongs to a phase not yet complete. -/
def State.pendOpen (s : State) (c : Nat) (tm : Team) (nb : Nat) : Bool :=
  tm.owes nb || (match s.barrier? c nb with
    | some b => PMap.get? tm.pend nb == some b.phase
    | none => false)

/-- Parties of a BLOCK barrier that could still arrive, and whether its phase can complete (R380). -/
def State.canComplete (s : State) (c nb : Nat) : Bool :=
  match s.block? c with
  | none => false
  | some b =>
    match PMap.get? b.bars nb with
    | none => false
    | some x =>
      if x.scope = .grid then true
      else
        let teams := (List.range b.nTeams).filter fun t =>
          match s.team? c t with
          | some tm => tm.status != .exited && tm.status != .killed && !tm.owes nb && PMap.get? tm.pend nb != some x.phase
          | none => false
        let msq := x.scope == .blockSeq && !b.seq.ended && PMap.get? b.seq.pend nb != some x.phase
        let owed := (List.range b.nTeams).filter fun t =>
          match s.team? c t with
          | some tm => tm.owes nb
          | none => false
        decide (x.count ≤ x.arrived + teams.length + owed.length + bnum msq)

/-- The line a wait word names is present, or kept absent by the team's own failed copy (R135, R172). -/
def State.lineReady (s : State) (c : Nat) (tm : Team) (w : WaitWord) : Bool :=
  let m := if w.argA = 0 then c else coreQuadrant c * Config.coresPerQuadrant + (w.argA - 1)
  !(((s.block? m).map (·.absent)).getD []).contains w.argB ||
    (tm.faults ++ tm.overflow).any (s.keepsLine c m w.argB)

/-- A replayed pass has not landed (R123). -/
def Team.replaying (t : Team) : Bool := t.out.any fun p => !p.counts && p.lanes.any fun l => !l.helper

/-- Something of the team is being replayed, a reissued copy among it (R123, R173). -/
def State.replayingAny (s : State) (c t : Nat) : Bool :=
  ((s.team? c t).map (·.replaying)).getD false || (s.teamCopies c t).any fun x => !x.counts

/-- Whether a parked team's wait is over. -/
def State.waitOver (s : State) (c t : Nat) (tm : Team) : Bool :=
  match tm.wait.cause with
  | .counter => decide (tm.wait.argB ≤ tm.acv tm.wait.argA)
  | .all => s.allDone c t tm
  | .presence => s.lineReady c tm tm.wait
  | .lock => !tm.lockOpen
  | .barrier => !s.pendOpen c tm tm.wait.argA || !s.canComplete c tm.wait.argA
  | .range => false
  | .replay => !tm.replaying && (s.teamCopies c t).all (·.counts)
  | .fence => s.teamRemoteQuiet c t tm
  | .xinv => !s.xinvs.any fun x => x.core == c && x.team == t
  | .exit => s.exitReady c t tm
  | .none | .seqTrap => true

/-- A parked team released. DESIGN CHOICE (entry 76): the word it waits at is issued anew, as a clause of its own, after a further
arbitration that takes the clause's weight again. -/
def State.wake (s : State) (c t : Nat) : State :=
  match s.team? c t with
  | some tm =>
    if tm.status = .parked then
      (s.setTeam c t { tm with status := .live, wait := noWait, readyAt := s.cycle }).emitWait c t tm.wait true
    else s
  | none => s

/-- A parked team leaves its wait for a trap that falls due (R372, R411); at P0 it re-enters it on TRET, which holds replays anew. -/
def State.leaveWait (s : State) (c t : Nat) : State :=
  match s.team? c t with
  | some tm =>
    if tm.status = .parked then
      let left := if tm.p1 || tm.wait.cause == .replay then tm.left else tm.wait
      (s.setTeam c t { tm with status := .live, left := left, wait := noWait, readyAt := s.cycle }).emitWait c t tm.wait true
    else s
  | none => s

/-- The team that a sequencer trap of the block is for: the lowest that has not ended (R277). -/
def State.trapTeam (s : State) (c : Nat) (b : Block) : Option Nat :=
  match b.seq.trap with
  | some k =>
    if k.taken then none
    else (List.range b.nTeams).find? fun t => match s.team? c t with
      | some tm => tm.status != .exited && tm.status != .killed
      | none => false
  | none => none

/-- Wait cause 10 (R372). -/
def seqWait : WaitWord := ⟨.seqTrap, 0, 0⟩

/-- The team that a pending sequencer trap is for shows it from now on, and leaves the wait it is parked at (R372). DESIGN
CHOICE (entry 40): a handler that parks again at P1 while it shows the cause stays parked. -/
def State.showTrap (s : State) (c : Nat) (b : Block) : State :=
  match s.trapTeam c b with
  | none => s
  | some t =>
    match s.team? c t with
    | none => s
    | some tm =>
      if tm.status = .stopped then s
      else
        let s := if tm.p1 && tm.seqDue then s else s.leaveWait c t
        if tm.seqDue then s else (s.modTeam c t fun u => { u with seqDue := true }).emitWait c t seqWait false

/-- A team that parks with a watchdog or a sequencer trap already due leaves its wait for it (R277, R411). -/
def State.parkDue (s : State) (c t : Nat) : State :=
  let s := if ((s.team? c t).map (·.wdogDue)).getD false then s.leaveWait c t else s
  match s.block? c with
  | some b => s.showTrap c b
  | none => s

/-- Every parked team whose wait is over released, and pending sequencer traps shown. -/
def State.settle (s : State) : State :=
  let s := s.blocks.foldl (fun s p => match s.block? p.1 with | some b => s.showTrap p.1 b | none => s) s
  let s := s.teams.foldl (fun s p =>
    match PMap.get? s.teams p.1 with
    | some tm => if tm.status = .parked && s.waitOver (p.1 / 16) (p.1 % 16) tm then s.wake (p.1 / 16) (p.1 % 16) else s
    | none => s) s
  s


/-- The address of the word to issue: that of its first adverb (R399). -/
def Team.wordPc (t : Team) : DWord := if t.advs.isEmpty then t.pc else t.advPc

/-! What is announced as a word issues. -/

def Adverb.tagOf : Adverb → Option (BitVec 16)
  | .tag t => some t
  | _ => none

/-- The CLAUSE packet of a clause's first pass and the MARKER of an ADV.TAG (R55, R418). -/
def State.announce (s : State) (c t : Nat) (tm : Team) : State :=
  let s := if tm.words = tm.advs.length then
      s.emitPc c t 1 tm.wordPc (t + 16 * (pcField tm.wordPc + 2 ^ 24 * tm.wordMask)) else s
  match tm.advs.findSome? Adverb.tagOf with
  | some g => s.emitPc c t 8 tm.pc (t + 16 * (g.toNat + 65536 * pcField tm.pc))
  | none => s

/-- The packets of the word the team stands at, once for each issue of it. -/
def State.announced (s : State) (c t : Nat) : State :=
  match s.team? c t with
  | some tm => if tm.told then s else (s.announce c t tm).modTeam c t fun u => { u with told := true }
  | none => s

/-! Clauses and paths (R33, R47, R334 to R338, R248). -/

/-- STALL packets for a run of cycles in which a datapath withheld its winner, with the clause's weight (R388, R418). -/
def State.emitStall (s : State) (c dp t weight cycles : Nat) : State :=
  let put (s : State) (n : Nat) : State := s.emitAt c dp 6 (t + 16 * (dp + 4 * (1 + 2 * (n + 65536 * weight))))
  let s := (List.range (cycles / 65535)).foldl (fun s _ => put s 65535) s
  if cycles % 65535 = 0 then s else put s (cycles % 65535)

/-- The run of withheld cycles of a datapath is over. -/
def State.endStall (s : State) (c dp : Nat) : State :=
  match PMap.get? (s.core c).dps dp with
  | some ⟨some t, some w, n⟩ =>
    (s.emitStall c dp t w n).modCore c fun x => { x with dps := PMap.set x.dps dp ⟨some t, none, 0⟩ }
  | _ => s

/-- A team that holds its datapath gives it up. -/
def State.freeDp (s : State) (c t : Nat) : State :=
  match PMap.get? (s.core c).dps (t % 4) with
  | some d =>
    if d.holder = some t then (s.endStall c (t % 4)).modCore c fun x => { x with dps := PMap.set x.dps (t % 4) ⟨none, none, 0⟩ } else s
  | none => s

/-- A clause ends: latches are lost, the datapath is free, the watchdog of an ordinary kernel restarts
(R47, R410). -/
def State.endClause (s : State) (c t : Nat) : State :=
  (s.modTeam c t fun tm =>
    { tm with
      latW := [], words := 0, advs := [], readyAt := s.cycle
      wdogFrom := if tm.p1 || tm.pers then tm.wdogFrom else s.cycle
      wdogElapsed := if tm.p1 || tm.pers then tm.wdogElapsed else 0 }).freeDp c t

/-- What a path that starts at an address had done of its word when a gather stopped it. -/
def Begun.isAt (b : Begun) (pc : DWord) (m : LaneMask) : Bool := b.pc == pc && b.mask == m
def Team.begunAt (t : Team) (pc : DWord) (m : LaneMask) : Option Begun := t.begun.find? (·.isAt pc m)

/-- A path begins at an address, as the first word of a new clause; one that a gather stopped within its word goes on with the
rest of it: the second half, or the passes of an LDP or STP still to come, with their addresses (R248, R160). -/
def State.startPath (s : State) (c t : Nat) (pc : DWord) (m : LaneMask) : State :=
  (s.modTeam c t fun tm => { tm with
    pc := pc, act := m, told := false
    second := (tm.begunAt pc m).any (·.second), pad := (tm.begunAt pc m).bind (·.pad)
    begun := tm.begun.filter fun b => !b.isAt pc m }).endClause c t

/-- Every pending path of a stack open to a gather again. -/
def freshMarks (l : List StackEntry) : List StackEntry :=
  l.map fun e => match e with
    | .path a m _ => StackEntry.path a m .pending
    | e => e

/-- Paths that a gather within another one stopped, open to the outer gather again; paths at barrier words stay stopped. -/
def openMarks (l : List StackEntry) : List StackEntry :=
  l.map fun e => match e with
    | .path a m .elsewhere => StackEntry.path a m .pending
    | e => e

/-- The team-wide word of a gather has issued: the gather is over, and with the outermost its marks. -/
def Team.gatherDone (t : Team) : Team :=
  match t.gathers with
  | g :: r => if g.go then { t with gathers := r, stack := if r.isEmpty then freshMarks t.stack else openMarks t.stack } else t
  | [] => t

/-- How a word that was issued leaves the team: the next word, and the clause's end with Z = 1. -/
def State.finish (s : State) (c t : Nat) (z : Bool) : State :=
  let s := s.announced c t
  let s := s.modTeam c t fun tm =>
    ({ tm with
      pc := tm.pc + 4, advs := [], words := tm.words + 1, told := false, second := false, pad := none
      look := tm.look + 1 } : Team).gatherDone
  if z then s.endClause c t else s

/-- Where the resume procedure ends (R336). -/
inductive Resume where
  | run (pc : DWord) (m : LaneMask)
  | frame (f : RefillFrame)
  | handler
  | empty
  deriving DecidableEq, Repr

/-- The resume procedure over a stack, down to a depth: what to do and the stack left. -/
def resumeStack : List StackEntry → Resume × List StackEntry
  | [] => (.empty, [])
  | .path a m _ :: r => (.run a m, r)
  | .join a m :: r => if m = 0 then resumeStack r else (.run a m, r)
  | .call a m :: r => if m = 0 then resumeStack r else (.run a m, r)
  | .handler :: r => (.handler, .handler :: r)
  | .refill f :: r => (.frame f, .refill f :: r)

/-- A gather is running paths. -/
def Team.gathering (t : Team) : Bool :=
  match t.gathers with
  | g :: _ => !g.go
  | [] => false

/-- Entries of the stack, those that gathers have set aside among them. -/
def Team.entries (t : Team) : List StackEntry :=
  t.stack ++ (t.gathers ++ (t.frame.map (·.gathers)).getD []).flatMap (·.above)

/-- The live lanes of R239: active, held, on a pending path, or arrived at a join or call entry; while a handler runs, the lanes
that TRET resumes among them. -/
def Team.liveMask (t : Team) : LaneMask :=
  let st := t.entries.foldl (fun m e => m ||| match e with
    | .join _ a => a | .call _ a => a | .path _ p _ => p
    | .refill f => f.held ||| f.cont ||| maskOf f.runs.flatten ||| f.drew
    | .handler => 0) (t.act ||| (t.frame.map (·.mask)).getD 0)
  (t.gathers ++ (t.frame.map (·.gathers)).getD []).foldl (fun m g => m ||| g.mask) st

/-- Lanes that would become inactive become helper lanes while their quad is live (R239). -/
def Team.rehelp (t : Team) (gone : LaneMask) : Team :=
  let live := t.liveMask
  { t with helpers := maskOf ((t.lanesOf (t.helpers ||| gone)).filter fun l => quadActive live l && !live.getLsbD l) }

/-! Killing a team (R330, R331, R401). -/

/-- A team's copies given up: their lines become present, their unwritten bytes are not defined (R136). -/
def State.dropCopies (s : State) (c t : Nat) : State :=
  let cs := (s.teamCopies c t).filter fun x => x.admitted || !x.counts
  let s := cs.foldl (fun s x => s.undefLines x c x.owed) s
  let es := ((s.team? c t).map fun tm => tm.faults ++ tm.overflow).getD []
  let s := es.foldl (fun s e => match e.what with
    | .copy x row => s.undefLines x c (x.owed.filter (row ≤ ·))
    | .pass .. => s) s
  s.modBlock c fun b => { b with copies := b.copies.filter (·.team != t) }

/-- A core's remote requests of a team that ends: its loads are forgotten, its writes go on under a number that no team
has. -/
def RemoteReq.orphan (r : RemoteReq) (c t id : Nat) : Option RemoteReq :=
  match r.what with
  | .load c' t' _ _ => if c' == c && t' == t then none else some r
  | .store c' t' l va st n => some (if c' == c && t' == t then { r with what := .store c' id l va st n } else r)
  | .atom c' t' k l n ret => some (if c' == c && t' == t then { r with what := .atom c' id k l n ret } else r)
  | _ => some r

/-- The team ends: its queue performed or left behind, loads, entries, copies and COLLs dropped, nothing more issued; a write
of its that is still on its way keeps its context and reports to nobody (R38, R96, R330). -/
def State.endTeam (s : State) (c t : Nat) (st : TeamStatus) : State :=
  let s := s.tick
  let id := 16 + s.fresh
  let s := (s.leaveQueue c t id).dropCopies c t
  let s := { s with remote := s.remote.filterMap fun (r : RemoteReq) => r.orphan c t id }
  let s := s.modCore c fun x => { x with order := x.order.map fun (w : HomeWrite) => if w.team = t then { w with team := id } else w }
  (s.modTeam c t fun tm =>
    { tm with
      status := st, wait := noWait, faults := [], overflow := [], ovfHeld := 0, seqDue := false, out := [], atoms := [], wld := [], late := [], pad := none, lockOn := []
      bad := [], failed := [], colls := [], unc := [], stack := [], gathers := [], begun := [], act := 0, helpers := 0 }).freeDp c t |>.refreshPresence

/-- The team killed and reported, and the barrier phases it leaves unable to complete told (R380). -/
def State.killTeam (s : State) (c t how : Nat) (cause : Cause) (fpc : DWord) (faddr : Nat) : State :=
  let s := s.endTeam c t .killed
  let s := match s.block? c with | some b => s.countKilled b.launch | none => s
  (s.reportKill c t how cause fpc faddr).settle

/-- A sequencer trap that a team was handling ends the block with the team (R278), the queues of whose teams are empty
(`State.drainBlock`); an engine instruction in flight runs on to completion (R276). -/
def State.killBlockTeams (s : State) (c how : Nat) (cause : Cause) (fpc : DWord) (faddr : Nat) : State :=
  (List.range 16).foldl (fun s t =>
    match s.team? c t with
    | some tm => if tm.status != .exited && tm.status != .killed then s.killTeam c t how cause fpc faddr else s
    | none => s) (s.modBlock c fun b => { b with seq := { b.seq with ended := true, trap := none } })

/-! Taking an exception (R390 to R399). -/

/-- What a trap carries: its cause, kind, ARG, the fault lane mask (none: the resume mask), the fault
address, XFAULT and OVF. -/
structure Trap where
  cause : Cause
  kind : TrapKind
  arg : Nat := 0
  mask : Option LaneMask := none
  addr : Nat := 0
  xfault : Word := 0
  ovf : Bool := false
  entry : Option Nat := none   -- the first fault entry that the trap covers (R398)
  after : DWord := 4      -- from the word to where SKIP resumes, for the precise kind
  pc : Option DWord := none   -- the word whose trap it is, where that has issued already (R100, R426)
  redo : List WinLoad := []   -- what TRET issues again of it (R426)
  deriving DecidableEq, Repr

def State.tvec (s : State) (c : Nat) : DWord := ((PMap.get? s.ctxs (s.ctxOf c)).map (·.tvec)).getD 0

/-- Where TRET resumes, and where TRET resumes after SKIP (Table 20.4). -/
def Team.resumes (t : Team) (after : DWord) : TrapKind → DWord × DWord
  | .precise => (t.wordPc, t.pc + after)
  | .deferred => (t.wordPc, t.wordPc)
  | .boundary => (t.wordPc, t.wordPc)
  | .completed => (t.pc + 4, t.pc + 4)
  | .sequencer => (t.wordPc, t.wordPc)
  | .late => (t.wordPc, t.wordPc)

def Trap.defer (k : Trap) : Bool := k.kind == .deferred || k.kind == .boundary

/-- TRAPCAUSE (Table 20.2). -/
def causeWord (cause : Cause) (defer ovf : Bool) (arg : Nat) : Word :=
  BitVec.ofNat 32 (cause.code + 256 * bnum defer + 512 * bnum ovf + 65536 * (arg % 65536))

/-- The fault PC (Table 20.4). -/
def Trap.pcOf (k : Trap) (t : Team) : DWord := k.pc.getD t.wordPc

/-- The team as the handler's first word finds it (R391, R392, R398). -/
def Team.enter (t : Team) (k : Trap) (tvec : DWord) (cycle fresh : Nat) : Team :=
  let m := t.act ||| (k.mask.getD 0)
  { t with
    status := .live, wait := noWait, pc := tvec, advs := [], words := 0, latW := [], act := m, told := false
    stack := .handler :: t.stack
    v := t.v.filter fun p => decide (p.1 % 1024 < t.allot)
    u := t.u.filter fun p => decide (p.1 < 56)
    hSeed := some fresh
    p1 := true, tix := t.ix, tsix := t.six, ix := BitVec.ofNat 9 t.allot, six := 56
    ovfHeld := t.overflow.length
    frame := some ⟨k.kind, k.cause, (t.resumes k.after k.kind).1, (t.resumes k.after k.kind).2, t.act, false, t.left, t.second,
      k.kind == .sequencer, t.gathers, t.pad, t.begun, k.addr, k.redo⟩
    gathers := [], pad := none, begun := [], left := noWait
    trapcause := causeWord k.cause k.defer k.ovf k.arg
    fpc := k.pcOf t, faddr := BitVec.ofNat 64 k.addr, flane := k.mask.getD t.act, xfault := k.xfault
    xfirst := k.entry.getD 0, xsel := 0, xcount := if k.entry.isSome then t.faults.length else 0, xinvlo := 0, second := false
    readyAt := cycle, yielded := false
    wdog2From := if k.cause = .watchdog then some cycle else t.wdog2From }

/-- The trap that a team was handling came from the matrix sequencer. -/
def Team.seqFrame (t : Team) : Bool := t.p1 && (t.frame.map (·.seq)).getD false

/-- The block's other teams follow one that has ended while it handled a sequencer trap (R278). -/
def State.killRest (s : State) (c : Nat) (cause : Cause) : State :=
  match s.block? c with
  | some b => s.killBlockTeams c 1 ((b.seq.trap.map (·.cause)).getD cause) b.seq.pc ((b.seq.trap.map (·.addr)).getD 0)
  | none => s

/-- The traps a team may take at P1 kill it (R394); one that handles a sequencer trap takes its block with it. -/
def State.killAtP1 (s : State) (c t : Nat) (tm : Team) (k : Trap) : State :=
  let s := (s.emitTrap c t k.cause k.defer 3 (k.pcOf tm)).killTeam c t 2 k.cause (k.pcOf tm) k.addr
  if tm.seqFrame then s.killRest c k.cause else s

/-- The queues that a trap of a team empties: its own, or its block's where the block ends with it. -/
def State.trapDrain (s : State) (c t : Nat) (tm : Team) : Option State :=
  if tm.seqFrame then s.drainBlock c else s.drain c t drainFuel

/-- TAKING AN EXCEPTION, once the team's store queue is drained at CORE scope: at P1 the team is killed (R394); with no
handler the default action applies (R330); else the team enters the handler (R391). A team whose queue cannot be
drained yet stays as it is and meets the trap again. -/
def State.raise? (s : State) (c t : Nat) (k : Trap) : Option State :=
  match s.team? c t with
  | none => none
  | some old =>
    match s.trapDrain c t old with
    | none => none
    | some s =>
      let s := if old.sq.isEmpty && !old.seqFrame then s else s.settle
      match s.team? c t with
      | none => none
      | some tm =>
        if tm.p1 then some (s.killAtP1 c t tm k)
        else if s.tvec c = 0 then
          some ((s.emitTrap c t k.cause k.defer 4 (k.pcOf tm)).killTeam c t 0 k.cause (k.pcOf tm) k.addr)
        else
          let s := s.tick
          some (((s.setTeam c t (tm.enter k (s.tvec c) s.cycle s.fresh)).freeDp c t).emitTrap c t k.cause k.defer 0 (k.pcOf tm))

/-- The trap taken, or met again later. -/
def State.raise (s : State) (c t : Nat) (k : Trap) : State := (s.raise? c t k).getD s

/-! The end of a path, outside refill phases (R336). Refill phases continue in `State.resumeTeam`. -/

/-- The stack without what lies above and with its topmost handler boundary (R392). -/
def dropHandler : List StackEntry → List StackEntry
  | [] => []
  | .handler :: r => r
  | _ :: r => dropHandler r

/-- SKIP passes over the team's own word: the kinds of Table 20.4 that resume after it. -/
def TrapFrame.passes (fr : TrapFrame) : Bool := fr.skipped && (fr.kind == .precise || fr.kind == .completed)

/-- RETURNING FROM AN EXCEPTION: the team as TRET leaves it (R401, R393): the stack, the windows, the privilege, the resume mask; a wait that
was left is entered again. DESIGN CHOICE (entry 69): what the handler wrote to ADDRHI stays. -/
def Team.leaveHandler (t : Team) (fr : TrapFrame) (cycle : Nat) : Team :=
  let t : Team := { t with
    stack := dropHandler t.stack
    ix := t.tix, six := t.tsix, p1 := false, frame := none, ovfHeld := 0
    pc := if fr.skipped then fr.skipTo else fr.resume
    told := false
    act := fr.mask
    second := !fr.passes && fr.second
    begun := fr.begun
    pad := if fr.passes then none else fr.pad
    gathers := fr.gathers
    wdogFrom := cycle, wdogElapsed := 0, wdog2From := none }
  if fr.passes then t.gatherDone else t

/-- The topmost join entry above every call entry and the refill frame (R335). DEDUCED (entry 72): above a handler boundary too, which
R392 has act as a call entry. -/
def topJoin : List StackEntry → Option DWord
  | [] => none
  | .join a _ :: _ => some a
  | .path .. :: r => topJoin r
  | _ => none

/-- A mask added to the topmost join entry. -/
def joinArrive (m : LaneMask) : List StackEntry → List StackEntry
  | [] => []
  | .join a x :: r => .join a (x ||| m) :: r
  | e :: r => e :: joinArrive m r

/-- A mask added to the topmost call entry. -/
def callArrive (m : LaneMask) : List StackEntry → List StackEntry
  | [] => []
  | .call a x :: r => .call a (x ||| m) :: r
  | e :: r => e :: callArrive m r

/-- A call entry lies above the refill frame (R343). DEDUCED (entry 72): above a handler boundary too. -/
def hasCall : List StackEntry → Bool
  | [] => false
  | .call .. :: _ => true
  | .handler :: _ => false
  | .refill _ :: _ => false
  | _ :: r => hasCall r

/-- The refill frame, the bottom entry of a refill team. -/
def frameOf : List StackEntry → Option RefillFrame
  | [] => none
  | .refill f :: _ => some f
  | _ :: r => frameOf r

def setFrame (f : RefillFrame) : List StackEntry → List StackEntry
  | [] => []
  | .refill _ :: r => .refill f :: r
  | e :: r => e :: setFrame f r

end Sys2Proof.Machine
end

