-- ==== Sys2Proof/Machine/Paths.lean ====
section
/-! DEFINITION. Paths and their ends: the resume procedure, the phases of a REFILL, drawing from a range,
the split of a path, the end of a team (R335 to R337, R346, R349, R351 to R358). -/

namespace Sys2Proof.Machine

/-! The gather of a team-wide word (R248, R249, R338). -/

/-- The lanes of a run or of the prologue that is under way. -/
def Team.phaseLanes (t : Team) : LaneMask := if t.p1 then 0 else ((frameOf t.stack).map (·.inside)).getD 0

/-- Whether the gather of a path with lanes `m` takes a path with lanes `x`: in a run or the prologue it takes those of the
run alone (R338). -/
def Team.sees (t : Team) (m x : LaneMask) : Bool := (t.phaseLanes &&& m) == 0 || (t.phaseLanes &&& x) != 0

/-- Whether a gather from a word has a path to run or to merge (R248, R338): one above the topmost call entry, frame or
handler boundary, and above every join that lanes wait at. `all` is false within another gather, which has stopped
some paths already; `sees` says which paths it takes. -/
def anyPath (sees : LaneMask → Bool) (addr : DWord) (all blocked : Bool) : List StackEntry → Bool
  | .path a m st :: r => sees m && (all || a == addr || st == .pending || anyPath sees addr all true r)
  | .join _ m :: r => !blocked && m == 0 && anyPath sees addr all false r
  | _ => false

/-- What the gather does with the entry on top. -/
inductive Scan where
  | run (pc : DWord) (m : LaneMask) (own : Bool)   -- a path, or lanes that wait at an entry of the running path's own
  | arrive (m : LaneMask)
  | pop
  | pass (short : Bool)
  | phase
  | done
  deriving DecidableEq, Repr

/-- R248 on the top entry of a stack that has n entries below it: entries that the running path pushed follow the
resume procedure; those that one of its paths has left, and those passed, are set aside; no call entry, frame or
handler boundary that stood there before is passed (R338). At the frame, the phase of a REFILL that a gathered path issued
ends where nothing is left short (R351). -/
def Gather.scan (g : Gather) (sees : LaneMask → Bool) (e : StackEntry) (n : Nat) : Scan :=
  let own := decide (g.left ≤ n)
  let leftOwn := decide (g.depth ≤ n) && !own
  match e with
  | .path a m st =>
    if !sees m then .done
    else if a = g.addr then .arrive m
    else if st = .pending then .run a m (decide (g.depth ≤ n))
    else .pass true
  | .join a m =>
    if own then (if m = 0 then .pop else .run a m true)
    else if leftOwn then .pass (g.short || m != 0)
    else if g.short || m != 0 then .done else .pass false
  | .call a m =>
    if own then (if m = 0 then .pop else .run a m true)
    else if leftOwn then .pass true else .done
  | .handler => .done
  | .refill f => if g.spans && !g.short && f.phase != .body && f.inside == 0 then .phase else .done

/-- A gather as an entry with n entries below it leaves the stack. -/
def Gather.under (g : Gather) (n : Nat) : Gather := { g with depth := min g.depth n, left := min g.left n }

/-- An entry with n entries below it is set aside by a gather within `os`. -/
def Gather.aside (g : Gather) (os : List Gather) (e : StackEntry) (n : Nat) (short : Bool) : Gather :=
  { g with
    above := e :: g.above, short := short
    deep := if os.any fun o => decide (n < o.depth) then g.deep + 1 else 0
    late := if os.any fun o => decide (n < o.left) then g.late + 1 else 0 }

/-- The gather goes on: pending paths run or arrive, and at its end the word may issue with the merged
mask, as the first word of a new clause. `phase` is what follows at the frame where a phase ends. -/
def State.gatherWith (s : State) (c t : Nat) (phase : State → RefillFrame → State) : Nat → State
  | 0 => s
  | n + 1 =>
    match s.team? c t with
    | none => s
    | some tm =>
      match tm.gathers with
      | [] => s
      | g :: gs =>
        let all := g.above.reverse ++ tm.stack
        let fin : State := (s.setTeam c t { tm with
          stack := all
          gathers := { g with go := true, above := [] } ::
            gs.map fun o => { o with depth := o.depth + g.deep, left := o.left + g.late } }).startPath c t g.addr g.mask
        match tm.stack with
        | [] => fin
        | e :: r =>
          let os := gs.map (·.under r.length)
          match g.scan (tm.sees g.mask) e r.length with
          | .arrive m =>
            (s.setTeam c t { tm with
              stack := r, gathers := { g with mask := g.mask ||| m, left := r.length } :: os }).gatherWith c t phase n
          | .run pc m own =>
            (s.setTeam c t { tm with
              stack := r
              gathers := (if own then { g with left := min g.left r.length } else { g with depth := r.length, left := r.length }) :: os }).startPath c t pc m
          | .pop => (s.setTeam c t { tm with stack := r, gathers := g :: os }).gatherWith c t phase n
          | .pass short =>
            (s.setTeam c t { tm with stack := r, gathers := g.aside gs e r.length short :: os }).gatherWith c t phase n
          | .phase =>
            match e with
            | .refill f =>
              phase (s.setTeam c t { tm with
                stack := all, gathers := { g with above := [], depth := all.length, left := all.length } :: gs }) f
            | _ => fin
          | .done => fin

/-- A team parks with a wait word (R372). DESIGN CHOICE (entry 76): whatever word it parks at, a BAR.ARR with Z = 0 among them, the
clause ends with it. -/
def State.parkTeam (s : State) (c t : Nat) (w : WaitWord) : State :=
  match s.team? c t with
  | none => s
  | some tm =>
    let pc := if tm.advs.isEmpty then tm.pc else tm.advPc
    let idle := decide (tm.words = tm.advs.length)
    (((s.setTeam c t { tm with status := .parked, wait := w, pc := pc }).endClause c t).modTeam c t fun u =>
      if idle then { u with wdogFrom := tm.wdogFrom, wdogElapsed := tm.wdogElapsed } else u).emitWait c t w false |>.parkDue c t

/-- Replays hold the whole team, under a gather too, until every replayed element has landed (R123, R173). DEDUCED (entry 77):
the hold is no wait at which a path stops in the sense of R248, since R123 says that it holds the team. -/
def State.holdReplay (s : State) (c t : Nat) : State :=
  match s.team? c t with
  | some tm => if tm.status = .live && !tm.p1 && s.replayingAny c t then s.parkTeam c t ⟨.replay, 0, 0⟩ else s
  | none => s

/-! The end of a team. -/

/-- The team ends as EXIT ends it (R156, R173, R346): its entries are discarded, a copy's with CESTAT.SKIP; barrier phases that it
leaves unable to complete are told (R380). -/
def State.teamExit (s : State) (c t : Nat) : State :=
  let skipped := ((s.team? c t).map fun tm => (tm.faults ++ tm.overflow).any fun e => match e.what with
    | .copy .. => true
    | .pass .. => false).getD false
  let s := s.endTeam c t .exited
  (if skipped then s.modTeam c t fun tm => { tm with cestat := tm.cestat ||| 2 } else s).settle

/-! Drawing (R353 to R359). -/

/-- A range task of the team's launch taken from the core's queue, oldest first. -/
def State.takeTask (s : State) (c t : Nat) : Option State :=
  match s.block? c with
  | none => none
  | some b =>
    match (s.core c).tasks.find? fun x => x.launch == b.launch with
    | none => none
    | some k =>
      some ((s.modCore c fun x => { x with tasks := x.tasks.erase k }).modTeam c t fun tm =>
        { tm with rangeNext := k.lo, rangeEnd := k.hi })

/-- The core's request goes to Longshore, where none is outstanding (R357). -/
def State.askShore (s : State) (c : Nat) : State :=
  if (s.core c).shore = .idle then
    let s := s.modCore c fun x => { x with shore := .asked }
    { s with shoreQ := PMap.set s.shoreQ (coreDie c) ((PMap.get? s.shoreQ (coreDie c)).getD [] ++ [c]) }
  else s

/-- A core's request comes to Longshore again: its donor can give nothing (R357, R358). DESIGN CHOICE (entry 80): before all others. -/
def State.shoreAgain (s : State) (c : Nat) : State :=
  let s := s.modCore c fun x => { x with shore := .asked }
  { s with shoreQ := PMap.set s.shoreQ (coreDie c) (c :: (PMap.get? s.shoreQ (coreDie c)).getD []) }

def Team.mapFrame (t : Team) (g : RefillFrame → RefillFrame) : Team :=
  match frameOf t.stack with
  | some f => { t with stack := setFrame (g f) t.stack }
  | none => t

/-- The range has an iteration for a lane, a task being taken where it is empty. -/
def State.rangeFor (s : State) (c t : Nat) : Nat → State × Bool
  | 0 => (s, false)
  | n + 1 =>
    match s.team? c t with
    | none => (s, false)
    | some tm =>
      if tm.rangeNext.toNat < tm.rangeEnd.toNat then (s, true)
      else match s.takeTask c t with
        | some s => s.rangeFor c t n
        | none => (s, false)

/-- A lane that draws nothing leaves the body for good. -/
def State.drawNone (s : State) (c t l : Nat) : State :=
  match s.team? c t with
  | none => s
  | some tm =>
    (s.setTeam c t (tm.mapFrame fun f => { f with toDraw := f.toDraw.filter (· != l) })).emitRefill c t l 3
      ((PMap.get? tm.iter l).getD 0)

/-- A lane takes the next iteration. -/
def State.drawTake (s : State) (c t l : Nat) : State :=
  match s.team? c t with
  | none => s
  | some tm =>
    (s.setTeam c t
      ({ tm with iter := PMap.set tm.iter l tm.rangeNext, rangeNext := tm.rangeNext + 1 }.mapFrame fun f =>
        { f with toDraw := f.toDraw.filter (· != l), drew := f.drew ||| maskOf [l] })).emitRefill c t l 0 tm.rangeNext

/-- The lanes draw in order; false where the team has to wait for Longshore (R353). -/
def State.drawLanes (s : State) (c t : Nat) : List Nat → State × Bool
  | [] => (s, true)
  | l :: r =>
    match s.rangeFor c t (Config.tasks + 1) with
    | (s, true) => (s.drawTake c t l).drawLanes c t r
    | (s, false) =>
      let s := s.askShore c
      match (s.team? c t).bind fun tm => frameOf tm.stack with
      | some f =>
        if f.cont ||| f.drew = 0 then
          ((s.modTeam c t fun tm => tm.mapFrame fun f => { f with toDraw := l :: r }), false)
        else (s.drawNone c t l).drawLanes c t r
      | none => (s, true)

/-- The cut at the donor's draw (R358): the upper half of what remains becomes a task of the requester; a
donor with too little left is chosen again. -/
def State.cutRange (s : State) (c t : Nat) : State :=
  match s.cores.find? fun p => p.2.shore == .donor (16 * c + t), s.team? c t, s.block? c with
  | some (q, _), some tm, some b =>
    let r := tm.rangeEnd.toNat - tm.rangeNext.toNat
    if r < 2 then s.shoreAgain q
    else
      let mid := tm.rangeEnd - BitVec.ofNat 32 (r / 2)
      (s.setTeam c t { tm with rangeEnd := mid }).modCore q fun x =>
        { x with shore := .given, tasks := x.tasks ++ [RangeTask.mk b.launch b.rec_.addr tm.arg mid tm.rangeEnd] }
  | _, _, _ => s

/-- TICKET (R356): the smallest iteration drawn and not retired, else RANGE_NEXT. Every live lane holds one: on the current
path, on another, gathered, held, in a run still to run or in C or P. -/
def Team.ticketNow (t : Team) : Word :=
  let its := (t.lanesOf t.liveMask).map fun l => ((PMap.get? t.iter l).getD 0).toNat
  match its with
  | [] => t.rangeNext
  | x :: r => BitVec.ofNat 32 (r.foldl min x)

def State.setTicket (s : State) (c t : Nat) : State :=
  s.modTeam c t fun tm => if (frameOf tm.stack).isSome then { tm with ticket := tm.ticketNow } else tm

/-! The end of the team, and the resume procedure (R336, R346). -/

/-- The trap that consumes every record with the first record's cause, and the team without them (R100); its fault PC is that of
the release which waited for the first record's access, where one did (entry 29). -/
def Team.failTrap (t : Team) : Option (Trap × Team) :=
  match t.failed with
  | [] => none
  | x :: r =>
    let mine := (x :: r).filter (·.cause == x.cause)
    some ({ cause := x.cause, kind := .deferred, addr := x.addr, pc := x.at_.map (·.1)
            mask := some (mine.foldl (fun m y => m ||| y.mask) 0) },
      { t with failed := (x :: r).filter (·.cause != x.cause) })

/-- A release in the queue has waited for an access that failed: its trap is due (R100, entry 29). One of the interrupted code waits
until the handler is over. -/
def Team.failLate (t : Team) : Option (Trap × Team) :=
  if t.failed.any fun f => (f.at_.map fun r => r.2 || !t.p1).getD false then t.failTrap else none

/-- The trap of a window LDP that has met a word which cannot be corrected: precise, at the LDP (R426, entry 62). -/
def WinLoad.trap (x : WinLoad) : Trap :=
  { cause := .poisonedData, kind := .late, mask := some (maskOf (x.bad.map (·.1))), addr := ((x.bad.map (·.2)).headD 0)
    pc := some x.pc, redo := [{ x with bad := [] }] }

/-- That trap, and the team without it. -/
def Team.takeLate (t : Team) (x : WinLoad) : Trap × Team := (x.trap, { t with late := t.late.erase x })

/-- The trap of a word that has issued, due to a team. -/
def Team.lateTrap (t : Team) : Option (Trap × Team) :=
  match t.failLate with
  | some x => some x
  | none => t.lateNow.head?.map t.takeLate

/-- The trap of the first instruction that reads a destination marked poisoned (R101, R432). -/
def badTrap (l : List BadDest) : Trap :=
  let first := l.foldl (fun (a : Option BadDest) b => match a with
    | none => some b
    | some a => if b.lane < a.lane then some b else some a) none
  match first with
  | none => { cause := .remoteTimeout, kind := .deferred }
  | some a =>
    { cause := a.cause, kind := .deferred, addr := a.addr
      mask := some (maskOf ((l.filter (·.cause == a.cause)).map (·.lane))) }

/-- The trap of R101 for atomics that nothing has read, at WAITALL, FENCE and EXIT. -/
def Team.badAtomics (t : Team) : Option Trap :=
  match t.bad with
  | [] => none
  | l => some (badTrap l)

/-- A record of R101 without a destination to mark is consumed by the trap that delivers it (R399). -/
def Team.consumeBad (t : Team) (cause : Cause) : Team :=
  { t with bad := t.bad.filter fun b => b.dest != .none || b.cause != cause }

/-- The trap that falls due where a team is about to end, and the team that meets it (R100, R101, R346, R426). -/
def Team.endTrap (t : Team) : Option (Trap × Team) :=
  match t.failTrap with
  | some x => some x
  | none => match t.badAtomics with
    | some k => some (k, t.consumeBad k.cause)
    | none => t.late.head?.map t.takeLate

/-- The team is about to end: it waits as EXIT waits, meets what failed, and ends (R346). -/
def State.teamEnds (s : State) (c t : Nat) : State :=
  match s.team? c t with
  | none => s
  | some tm =>
    if !s.exitReady c t tm then s.parkTeam c t ⟨.exit, 0, 0⟩
    else match tm.endTrap with
      | some (k, tm') => ((s.setTeam c t tm').raise? c t k).getD s
      | none => s.teamExit c t

/-- No path is left: the team ends (R336, R351). -/
def State.noPath (s : State) (c t : Nat) : State := (s.modTeam c t fun tm => { tm with ending := true }).teamEnds c t

/-- The next path, or the end of the team where the refill frame's phase is the body. `last` is the address at which
the path ended; `phase` is what follows at the frame in another phase. -/
def State.resumeWith (s : State) (c t : Nat) (last : DWord) (phase : State → RefillFrame → State) : State :=
  match s.team? c t with
  | none => s
  | some tm =>
    match resumeStack tm.stack with
    | (.run pc m, r) => (s.setTeam c t { tm with stack := r }).startPath c t pc m
    | (.handler, r) =>
      let s := s.setTeam c t { tm with stack := r, pc := last, advs := [] }
      s.raise c t { cause := .divergenceOverflow, kind := .precise }
    | (.frame f, r) =>
      let s := s.setTeam c t { tm with stack := r }
      if f.phase = .body then s.noPath c t else phase s f
    | (.empty, r) => (s.setTeam c t { tm with stack := r }).noPath c t

/-! The phases of a REFILL (R351). -/

/-- After the draws: the prologue of the lanes that drew, else the label. Where no lane goes on, the gather that the REFILL
issued under goes on, or a body path that has not reached the REFILL runs (R248), else the team ends. -/
def State.afterDraws (s : State) (c t : Nat) : State :=
  match s.team? c t, s.block? c with
  | some tm, some b =>
    match frameOf tm.stack with
    | none => s
    | some f =>
      let s := s.modTeam c t fun tm => tm.rehelp (maskOf f.retired ||| tm.helpers)
      if f.drew = 0 then
        if f.cont = 0 then
          let s := s.modTeam c t fun tm => tm.mapFrame fun f => { f with phase := .body, retired := [] }
          if tm.gathering then s.gatherWith c t (fun s _ => s) 64 else s.resumeWith c t tm.wordPc fun s _ => s
        else (s.modTeam c t fun tm => tm.mapFrame fun f => { f with phase := .body, cont := 0, retired := [] }).startPath c t f.label f.cont
      else
        (s.modTeam c t fun tm => tm.mapFrame fun f => { f with phase := .prologue, inside := f.drew }).startPath c t b.rec_.entry f.drew
  | _, _ => s

/-- The wait for Longshore (R353). -/
def State.parkRange (s : State) (c t : Nat) : State :=
  ((s.modTeam c t fun tm => { tm with status := .parked, wait := ⟨.range, 0, 0⟩ }).endClause c t).emitWait c t ⟨.range, 0, 0⟩ false |>.parkDue c t

/-- Drawing goes on with the lanes that have still to draw; a cut follows a draw (R358), and at team start TICKET does
(R356). -/
def State.drawGo (s : State) (c t : Nat) : State :=
  match (s.team? c t).bind fun tm => frameOf tm.stack with
  | none => s
  | some f =>
    match s.drawLanes c t f.toDraw with
    | (s, false) => (s.cutRange c t).parkRange c t
    | (s, true) =>
      let s := if f.toDraw.isEmpty then s else s.cutRange c t
      let s := if f.phase = .prologue then s.setTicket c t else s
      s.afterDraws c t

/-- What a REFILL does next: the next retire run, else the draws. -/
def State.refillGo (s : State) (c t : Nat) : State :=
  match s.team? c t, s.block? c with
  | some tm, some b =>
    match frameOf tm.stack with
    | none => s
    | some f =>
      match f.runs with
      | run :: rest =>
        let s := run.foldl (fun s l => s.emitRefill c t l 2 ((PMap.get? tm.iter l).getD 0)) s
        (s.modTeam c t fun tm => tm.mapFrame fun f => { f with runs := rest, phase := .retire, inside := maskOf run }).startPath c t
          b.rec_.retire (maskOf run)
      | [] => (s.modTeam c t fun tm => tm.mapFrame fun f => { f with toDraw := f.retired }).drawGo c t
  | _, _ => s

/-- A retire or prologue phase ends (R351). -/
def State.phaseEnd (s : State) (c t : Nat) (f : RefillFrame) : State :=
  match f.phase with
  | .retire => s.refillGo c t
  | .prologue =>
    (s.modTeam c t fun tm => tm.mapFrame fun f =>
      { f with phase := .body, cont := 0, drew := 0, retired := [] }).startPath c t f.label (f.cont ||| f.drew)
  | .body => s

/-- The resume procedure (R336): the next path, the next phase, or the end of the team. -/
def State.resumeTeam (s : State) (c t : Nat) (last : DWord) : State := s.resumeWith c t last fun s f => s.phaseEnd c t f

/-- The gather goes on; the phases of a REFILL that a gathered path issued go on under it (R248, R351). -/
def State.gatherOn (s : State) (c t : Nat) : State := s.gatherWith c t (fun s f => s.phaseEnd c t f) 64

/-- The current path stops under a gather and stays pending where it stands, with what it has done of its word (R248). -/
def State.stopPath (s : State) (c t : Nat) (st : PathStop) : State :=
  match s.team? c t with
  | none => s
  | some tm =>
    let stack := .path tm.wordPc tm.act st :: tm.stack
    let gs := match tm.gathers with | g :: r => { g with left := stack.length, short := true } :: r | [] => []
    let begun := if tm.second || tm.pad.isSome then ⟨tm.wordPc, tm.act, tm.second, tm.pad⟩ :: tm.begun else tm.begun
    (s.setTeam c t { tm with stack := stack, gathers := gs, act := 0, pad := none, second := false, begun := begun }).gatherOn c t

/-- The team parks (R372); under a gather its path stops instead (R248). -/
def State.park (s : State) (c t : Nat) (w : WaitWord) : State :=
  match s.team? c t with
  | none => s
  | some tm => if tm.gathering then s.stopPath c t .elsewhere else s.parkTeam c t w

/-- The current path ends: the resume procedure runs, or the gather goes on (R336, R248). -/
def State.endPath (s : State) (c t : Nat) : State :=
  match s.team? c t with
  | none => s
  | some tm =>
    let s := s.setTeam c t { tm with act := 0 }
    if tm.gathering then s.gatherOn c t else s.resumeTeam c t tm.wordPc

/-- A path arrives at its join entry (R335). -/
def State.arriveJoin (s : State) (c t : Nat) : State :=
  (s.modTeam c t fun tm => { tm with stack := joinArrive tm.act tm.stack }).endPath c t

/-- A path arrives at the end of its phase; with the last of them TICKET follows (R351, R356). -/
def State.arriveFrame (s : State) (c t : Nat) : State :=
  let s := s.modTeam c t fun tm => { tm.mapFrame fun f => { f with inside := f.inside &&& ~~~tm.act } with act := 0 }
  (if ((s.team? c t).map (·.phaseLanes)).getD 0 = 0 then s.setTicket c t else s).endPath c t

/-- A path arrives at the team-wide word of the gather it runs under (R248). -/
def State.arriveGather (s : State) (c t : Nat) : State :=
  (s.modTeam c t fun tm =>
    { tm with
      gathers := match tm.gathers with | g :: r => { g with mask := g.mask ||| tm.act, left := tm.stack.length } :: r | [] => []
      act := 0 }).gatherOn c t

/-- The address at which the current path ends where it is one of a run or of the prologue, at P0: BODY for lanes that drew,
else REND. -/
def State.phaseStop (s : State) (c : Nat) (tm : Team) : Option DWord :=
  if tm.phaseLanes &&& tm.act = 0 then none
  else match frameOf tm.stack, s.block? c with
    | some f, some b => some (if f.drew &&& tm.act = 0 then b.rec_.rend else b.rec_.body)
    | _, _ => none

/-- The path is one of a retire or prologue run of a REFILL (R354), not of the prologue at team start. -/
def Team.inRun (t : Team) : Bool :=
  t.phaseLanes &&& t.act != 0 && ((frameOf t.stack).map fun f => f.drew &&& t.act == 0 || !f.retired.isEmpty).getD false

/-! Splitting a path (R337). -/

def lowest (m : LaneMask) : Nat := ((List.range 1024).find? m.getLsbD).getD 1024

def insertPart (p : DWord × LaneMask) : List (DWord × LaneMask) → List (DWord × LaneMask)
  | [] => [p]
  | q :: r => if lowest p.2 < lowest q.2 then p :: q :: r else q :: insertPart p r

/-- The parts in ascending order of their lowest lanes: the first runs, the others are stacked so that they
run in that order. -/
def sortParts (ps : List (DWord × LaneMask)) : List (DWord × LaneMask) := ps.foldl (fun l p => insertPart p l) []

/-- The split, on a stack that has room. -/
def State.split (s : State) (c t : Nat) (parts : List (DWord × LaneMask)) : State :=
  match sortParts parts with
  | [] => s
  | (pc, m) :: rest =>
    (s.modTeam c t fun tm => { tm with stack := (rest.map fun p => .path p.1 p.2 .pending) ++ tm.stack }).startPath c t pc m

/-- The divergence stack has room for some entries more (R334). DEDUCED (entry 72): a handler boundary takes one of the 32
entries, and it is placed on a full stack too (R392). -/
def Team.room (t : Team) (n : Nat) : Bool := decide (t.entries.length + n ≤ Config.stackEntries)

end Sys2Proof.Machine
end

