-- ==== Sys2Proof/Machine/Issue.lean ====
section
/-! DEFINITION. The issue of a word: its fetch, the checks of R60 before its own effect, the gather before a
team-wide word, and the adverbs that modify it (R40, R46 to R60, R115, R248). -/

namespace Sys2Proof.Machine

/-! Fetch (R40, R115). -/

/-- The word at an address, or the trap its fetch raises there. -/
def State.fetch (s : State) (c : Nat) (pc : DWord) (p1 : Bool) : State × Except Trap Word :=
  if pc.toNat % 4 ≠ 0 then (s, .error { cause := .misaligned, kind := .precise, addr := pc.toNat })
  else if 2 ^ 56 ≤ pc.toNat then (s, .error { cause := .nonCanonical, kind := .precise, addr := pc.toNat })
  else
    match s.translate c (s.ctxOf c) pc.toNat .fetch p1 with
    | (s, .error (cause, xf)) => (s, .error { cause := cause, kind := .precise, addr := pc.toNat, xfault := xf })
    | (s, .ok pa) =>
      match s.route pa with
      | .local_ a =>
        let s := s.homeRead c (a / 64)
        if s.poisoned (a / 64) then (s, .error { cause := .poisonedData, kind := .precise, addr := pc.toNat })
        else (s, .ok (BitVec.ofNat 32 (s.homeNat a 4)))
      | _ => (s, .error { cause := .permission, kind := .precise, addr := pc.toNat })

/-- A fetch that looks ahead and changes nothing. -/
def State.lookAt (s : State) (c : Nat) (pc : DWord) (p1 : Bool) : Option Word :=
  match (s.fetch c pc p1).2 with
  | .ok w => some w
  | .error _ => none

/-! The checks at issue. -/

/-- How far a word is team-wide (R247): not, as a barrier word, otherwise. -/
inductive Wide where
  | no | barrier | yes
  deriving DecidableEq, Repr

/-- What the checks before a word's own effect say (R60). -/
inductive Admit where
  | go | illegal | arrive | stop | gather | bound | stale (w : Nat) | lock (l : List (Nat × LaneMask)) | late (x : WinLoad) | upset (l : List Nat) | bad (l : List BadDest)
  deriving DecidableEq, Repr

/-- Whether a gather has to run before a team-wide word (R248). DESIGN CHOICE (entry 14): the address X of a word under adverbs is that
of its first adverb, so that a path which has landed past the adverbs (R49) is at another address. -/
def Team.gatherFor (t : Team) (w : Wide) : Option Admit :=
  if w = .no then none
  else match t.gathers with
    | g :: _ =>
      if g.go then (if g.addr = t.wordPc then none else if anyPath (t.sees t.act) t.wordPc false false t.stack then some .gather else none)
      else if g.addr = t.wordPc then some .arrive
      else if g.barrier && (w == .yes || t.inRun) then
        (if anyPath (t.sees t.act) t.wordPc false false t.stack then some .gather else none)
      else some .stop
    | [] => if anyPath (t.sees t.act) t.wordPc true false t.stack then some .gather else none

/-- The checks in the order of R60; then the interlock of R63, the trap of a window LDP whose destination the word would read, the
parity of R426 and the first reader's trap of R101. -/
def Team.vetWord (t : Team) (i : Instr) (z : Bool) (w : Wide) (us : List Use) : Admit :=
  if !i.legal || (decide (23 ≤ t.words) && !z) then .illegal
  else match t.gatherFor w with
  | some a => a
  | none =>
    if us.any fun u => !t.bound u then .bound
    else match t.stale us with
    | some x => .stale x
    | none =>
      if t.lockers us != [] then .lock (t.lockers us)
      else match t.lateRead us, t.upset us, t.badRead us with
        | none, [], [] => .go
        | none, [], l => .bad l
        | none, l, _ => .upset l
        | some x, _, _ => .late x

/-- The gather begins (R248): the current path has arrived, and what is pending runs. -/
def State.gatherBegin (s : State) (c t : Nat) (w : Wide) : State :=
  match s.team? c t with
  | none => s
  | some tm =>
    let tm := tm.gatherDone
    let stack := if tm.gathers.isEmpty then freshMarks tm.stack else tm.stack
    let g : Gather :=
      { addr := tm.wordPc, mask := tm.act, above := [], depth := stack.length, left := stack.length, short := false
        barrier := w == .barrier, go := false, deep := 0, late := 0, spans := false }
    (s.setTeam c t { tm with act := 0, stack := stack, gathers := g :: tm.gathers }).gatherOn c t

/-- A precise trap with no address, for the whole path. -/
def plainTrap (cause : Cause) : Trap := { cause := cause, kind := .precise }

/-- A clause of the acting team: the team where it is live. -/
def State.live? (s : State) : Option Team :=
  match s.team? s.cur.core s.cur.team with
  | some tm => if tm.status = .live then some tm else none
  | none => none

/-- The team parks until some results have arrived (R63). -/
def State.lockOn (s : State) (c t : Nat) (tm : Team) (l : List (Nat × LaneMask)) : State :=
  (s.setTeam c t { tm with lockOn := l }).park c t ⟨.lock, 0, 0⟩

/-- The trap of a window LDP, at the word that would read what it has not written (R426). -/
def State.raiseLate (s : State) (c t : Nat) (tm : Team) (x : WinLoad) : State :=
  ((s.setTeam c t (tm.takeLate x).2).raise? c t x.trap).getD s

/-- THE ISSUE OF A WORD by the acting team: the checks, then its own effect. -/
def State.issue (s : State) (i : Instr) (z : Bool) (w : Wide) (us : List Use)
    (f : Nat → Nat → Team → State → State) : Host.Outcome State Fault Refusal :=
  let c := s.cur.core
  let t := s.cur.team
  match s.live? with
  | none => .fault .noIssuer
  | some tm =>
    .next (match tm.vetWord i z w us with
      | .illegal => s.raise c t (plainTrap .illegalInstruction)
      | .arrive => s.arriveGather c t
      | .stop => s.stopPath c t (if w = .barrier then .atBarrier else .elsewhere)
      | .gather => s.gatherBegin c t w
      | .bound => s.raise c t (plainTrap .registerBound)
      | .stale x => s.raise c t { plainTrap .staleLatch with
          mask := some (maskOf (tm.active.filter fun l => warpOf l == x)) }
      | .lock l => s.lockOn c t tm l
      | .late x => s.raiseLate c t tm x
      | .upset l => s.raise c t { plainTrap .poisonedData with mask := some (maskOf l) }
      | .bad l => s.raise c t (badTrap l)
      | .go => f c t tm s)

/-- A word whose effect is on the team alone; it then goes on to the next word. -/
def State.compute (s : State) (i : Instr) (z : Bool) (w : Wide) (us : List Use) (f : Team → Team) :
    Host.Outcome State Fault Refusal :=
  s.issue i z w us fun c t tm s => (s.setTeam c t (f tm)).finish c t z

/-- The registers of other lanes that a word reads for the lanes of the path: `src` names them, with their lanes. -/
def Team.crossReads (t : Team) (src : Team → Nat → List (Opd × Nat)) : List (Opd × Nat) := t.active.flatMap (src t)

/-- The outstanding results that the word waits for in other lanes (R63). -/
def Team.crossLock (t : Team) (src : Team → Nat → List (Opd × Nat)) : List (Nat × LaneMask) :=
  (t.crossReads src).flatMap fun x =>
    ((t.atoms.filter fun a => t.touches a.dest a.regs (src1 x.1) && a.owes (maskOf [x.2])).map fun a => (a.id, maskOf [x.2])) ++
    (t.wld.filter fun a => t.touches a.dest a.regs (src1 x.1) && a.owes (maskOf [x.2])).map fun a => (a.id, maskOf [x.2])

/-- The window LDP whose trap is due and of which the word would read a destination in another lane. -/
def Team.crossLate (t : Team) (src : Team → Nat → List (Opd × Nat)) : Option WinLoad :=
  t.lateNow.find? fun a => (t.crossReads src).any fun x => t.touches a.dest a.regs (src1 x.1) && a.owes (maskOf [x.2])

/-- The lanes of the path for which a word would read a register of another lane whose parity fails (R426). -/
def Team.crossUpset (t : Team) (src : Team → Nat → List (Opd × Nat)) : List Nat :=
  t.active.filter fun l => (src t l).any fun x => t.parity x.2 x.1 1

/-- The marks of R101 that the word meets in other lanes. -/
def Team.crossBad (t : Team) (src : Team → Nat → List (Opd × Nat)) : List BadDest :=
  t.bad.filter fun b => (t.crossReads src).any fun x => t.touches b.dest b.regs (src1 x.1) &&
    (match b.dest with | .lane _ => b.lane == x.2 | _ => true)

/-- A word whose effect is on the team alone and which reads registers of other lanes: it meets there what it would meet in
its own. -/
def State.computeFrom (s : State) (i : Instr) (z : Bool) (w : Wide) (us : List Use) (src : Team → Nat → List (Opd × Nat))
    (f : Team → Team) : Host.Outcome State Fault Refusal :=
  s.issue i z w us fun c t tm s => match tm.crossLock src, tm.crossLate src, tm.crossUpset src, tm.crossBad src with
    | [], none, [], [] => (s.setTeam c t (f tm)).finish c t z
    | [], none, [], l => s.raise c t (badTrap l)
    | [], none, l, _ => s.raise c t { plainTrap .poisonedData with mask := some (maskOf l) }
    | [], some x, _, _ => s.raiseLate c t tm x
    | l, _, _, _ => s.lockOn c t tm l

/-! Adverbs of the word at issue (R50 to R53). -/

/-- The rounding mode of ADV.RND, else nearest-even (R51). -/
def Team.rnd (t : Team) : Rnd :=
  (t.advs.findSome? fun a => match a with | .rnd r => some r | _ => none).getD .rn

/-- A 12-bit immediate, extended by ADV.IMM where one stands before it (R50). -/
def Team.imm (t : Team) (signed : Bool) (i : BitVec 12) : Word :=
  match t.advs.findSome? fun a => match a with | .imm h => some h | _ => none with
  | some h => h ++ i
  | none => if signed then i.signExtend 32 else i.setWidth 32

/-- Scope and order of ADV.SCOPE, else DEVICE and none (R52). -/
def Team.scopeOf (t : Team) : Scope × Order :=
  (t.advs.findSome? fun a => match a with | .scope s o => some (s, o) | _ => none).getD (.device, .none)

/-- ADV.CACHE bypass (R53). -/
def Team.bypass (t : Team) : Bool :=
  t.advs.any fun a => match a with | .cache .bypass => true | _ => false

/-- Table 3.9 and R52: whether an adverb may modify a word. -/
def Adverb.modifies (a : Adverb) (w : Nat) : Bool :=
  let op := fOp w
  let fn := fFn w
  let load := decide (0x18 ≤ op) && decide (op ≤ 0x1C)
  let store := decide (0x20 ≤ op) && decide (op ≤ 0x24)
  match a with
  | .imm hi =>
    (decide (0x08 ≤ op) && decide (op ≤ 0x0B)) || op == 0x0E || op == 0x0F || (op == 0x0D && bits w 14 6 == 0) ||
    (op == 0x2E && bits w 24 2 != 2 && decide (hi.toNat ≤ 15))
  | .rnd _ =>
    ((op == 0x10 || op == 0x11 || op == 0x14) && decide (fn ≤ 3)) || op == 0x12 || (op == 0x15 && fn == 1)
  | .scope _ o =>
    let rel := o == .release || o == .acqrel
    let acq := o == .acquire || o == .acqrel
    if load then !rel && !(acq && bit w 1)
    else if op == 0x1F then !rel
    else if store then !acq
    else if op == 0x25 then !(bit w 6 && acq)
    else op == 0x26 && fn != 1
  | .cache _ => load || op == 0x1F || store || (op == 0x27 && decide (fn ≤ 3))
  | .sched .. | .tag _ =>
    match decodeNat w with
    | .ok _ => !(decide (0x30 ≤ op) && decide (op ≤ 0x37)) && op != 0x3F
    | .error _ => false

def Adverb.kind : Adverb → Nat
  | .imm _ => 0 | .rnd _ => 1 | .scope .. => 2 | .cache _ => 3 | .sched .. => 4 | .tag _ => 5

/-- The adverb an instruction is. -/
def adverbOf : Instr → Option Adverb
  | .advImm h => some (.imm h)
  | .advRnd r => some (.rnd r)
  | .advScope s o => some (.scope s o)
  | .advCache h => some (.cache h)
  | .advSched d j => some (.sched d j)
  | .advTag g => some (.tag g)
  | _ => none

/-- Whether the run that begins with an adverb is legal (R49), and where SKIP of an illegal one resumes; a
word that cannot be fetched is left to its own fetch. DESIGN CHOICE (entry 45): of a run of three adverbs SKIP resumes at
the second, since R399 names the word after the modified word and such a run has none. -/
def State.runOk (s : State) (c : Nat) (tm : Team) (a : Adverb) : Bool × DWord :=
  match s.lookAt c (tm.pc + 4) tm.p1 with
  | none => (true, 4)
  | some w1 =>
    if fOp w1.toNat = 0x3F then
      match decode w1 with
      | .error _ => (false, 12)
      | .ok i1 =>
        match adverbOf i1 with
        | none => (false, 12)
        | some b =>
          if a.kind = b.kind then (false, 12)
          else match s.lookAt c (tm.pc + 8) tm.p1 with
            | none => (true, 4)
            | some w2 =>
              if fOp w2.toNat = 0x3F then (false, 4)
              else (a.modifies w2.toNat && b.modifies w2.toNat, 12)
    else (a.modifies w1.toNat, 8)

/-- An adverb word: the check of its run at the first one, then its issue cycle. -/
def State.adverb (s : State) (a : Adverb) : Host.Outcome State Fault Refusal :=
  let c := s.cur.core
  let t := s.cur.team
  match s.live? with
  | none => .fault .noIssuer
  | some tm =>
    .next (
      if 23 ≤ tm.words then s.raise c t (plainTrap .illegalInstruction)
      else match (if tm.advs.isEmpty then s.runOk c tm a
          else (decide (tm.advs.length < 2) && !tm.advs.any (·.kind == a.kind), 4)) with
      | (false, after) => s.raise c t { plainTrap .illegalInstruction with after := after }
      | (true, _) =>
        s.setTeam c t { tm with
          advs := tm.advs ++ [a], advPc := tm.wordPc, pc := tm.pc + 4, words := tm.words + 1 })

end Sys2Proof.Machine
end

