-- ==== Sys2Proof/Machine/Adverbs.lean ====
section
/-! DEFINITION. The adverb words (R49 to R58). -/

namespace Sys2Proof.Machine

/-- ADV.IMM (R50). -/
def execAdvImm (hi : BitVec 20) (s : State) : Host.Outcome State Fault Refusal := s.adverb (.imm hi)

/-- ADV.RND (R51). -/
def execAdvRnd (r : Rnd) (s : State) : Host.Outcome State Fault Refusal := s.adverb (.rnd r)

/-- ADV.SCOPE (R52). -/
def execAdvScope (sc : Scope) (o : Order) (s : State) : Host.Outcome State Fault Refusal := s.adverb (.scope sc o)

/-- ADV.CACHE (R53). -/
def execAdvCache (h : Hint) (s : State) : Host.Outcome State Fault Refusal := s.adverb (.cache h)

/-- ADV.SCHED (R54): with J = 1 its own address is the reconvergence address of the word it modifies, so a path
may arrive here (R58, R335). -/
def execAdvSched (delay : BitVec 5) (j : Bool) (s : State) : Host.Outcome State Fault Refusal :=
  match s.live? with
  | none => .fault .noIssuer
  | some tm =>
    if j && topJoin tm.stack == some tm.pc then .next (s.arriveJoin s.cur.core s.cur.team)
    else s.adverb (.sched delay j)

/-- ADV.TAG (R55). -/
def execAdvTag (tag : BitVec 16) (s : State) : Host.Outcome State Fault Refusal := s.adverb (.tag tag)

end Sys2Proof.Machine
end

