-- ==== Sys2Proof/Machine/Int.lean ====
section
/-! DEFINITION. Integer, bit, compare, select, move, window and flag words: majors 0x00 to 0x05 and 0x08 to
0x0F (R198 to R217). -/

namespace Sys2Proof.Machine

/-! Lane-by-lane results. -/

/-- Results of every computing lane: a value and a taint of what the lane reads. -/
def Team.each (t : Team) (g : Nat → Latch) : List LaneVal :=
  t.parts.map fun l => ⟨l, (g l).val, (g l).taint⟩

/-- A value of one source. -/
def Team.fun1 (t : Team) (pair : Bool) (a : Opd) (g : DWord → DWord) : List LaneVal :=
  t.each fun l => let x := t.read pair l a; ⟨g x.val, x.taint⟩

/-- A value of two sources, each with its own width. -/
def Team.fun2 (t : Team) (pa pb : Bool) (a b : Opd) (g : DWord → DWord → DWord) : List LaneVal :=
  t.each fun l => let x := t.read pa l a; let y := t.read pb l b; ⟨g x.val y.val, x.taint || y.taint⟩

/-- A value of two sources and the destination as it stands. -/
def Team.fun3 (t : Team) (ps pd : Bool) (a b d : Opd) (g : DWord → DWord → DWord → DWord) : List LaneVal :=
  t.each fun l =>
    let x := t.read ps l a
    let y := t.read ps l b
    let z := t.read pd l d
    ⟨g x.val y.val z.val, x.taint || y.taint || z.taint⟩

def regsOf (pair : Bool) : Nat := if pair then 2 else 1

/-! The functions, at 32 or 64 bits (w). 32-bit results are extended with zeros (R181). -/

def low (x : DWord) : Word := x.setWidth 32
def up (x : Word) : DWord := x.setWidth 64

/-- A function given at each width. -/
def at2 (w : Bool) (g32 : Word → Word → Word) (g64 : DWord → DWord → DWord) (a b : DWord) : DWord :=
  if w then g64 a b else up (g32 (low a) (low b))

/-- The shift count (R203). -/
def count (w : Bool) (b : DWord) : Nat := b.toNat % (if w then 64 else 32)

def shiftL (w : Bool) (a b : DWord) : DWord := if w then a <<< count w b else up (low a <<< count w b)
def shiftR (w : Bool) (a b : DWord) : DWord := if w then a >>> count w b else up (low a >>> count w b)
def shiftS (w : Bool) (a b : DWord) : DWord := if w then a.sshiftRight (count w b) else up ((low a).sshiftRight (count w b))
def rotateL (w : Bool) (a b : DWord) : DWord := if w then a.rotateLeft (count w b) else up ((low a).rotateLeft (count w b))

def sminOf {n : Nat} (a b : BitVec n) : BitVec n := if a.toInt ≤ b.toInt then a else b
def smaxOf {n : Nat} (a b : BitVec n) : BitVec n := if a.toInt ≤ b.toInt then b else a
def uminOf {n : Nat} (a b : BitVec n) : BitVec n := if a.toNat ≤ b.toNat then a else b
def umaxOf {n : Nat} (a b : BitVec n) : BitVec n := if a.toNat ≤ b.toNat then b else a
def absOf {n : Nat} (a : BitVec n) : BitVec n := if a.toInt < 0 then 0 - a else a

/-- Every bit above bit c replaced by bit c (SEXT). -/
def signFrom {n : Nat} (a : BitVec n) (c : Nat) : BitVec n := (a <<< (n - 1 - c)).sshiftRight (n - 1 - c)
def sextBit (w : Bool) (a b : DWord) : DWord := if w then signFrom a (count w b) else up (signFrom (low a) (count w b))

/-- The uses of a word of major 0x00 whose B is a pair with W = 1. -/
def usesABW (f : ABW) : List Use := [srcP f.a f.w, srcP f.b f.w, dstP f.d f.w]
/-- The uses where B is a single register. -/
def usesShift (f : ABW) : List Use := [srcP f.a f.w, src1 f.b, dstP f.d f.w]

/-- A word of class int with two sources. -/
def State.alu (s : State) (i : Instr) (f : ABW) (g : DWord → DWord → DWord) : Host.Outcome State Fault Refusal :=
  s.compute i f.z .no (usesABW f) fun t => t.result .int f.d f.n (regsOf f.w) (t.fun2 f.w f.w f.a f.b g)

/-- The same with a single count register. -/
def State.aluShift (s : State) (i : Instr) (f : ABW) (g : DWord → DWord → DWord) : Host.Outcome State Fault Refusal :=
  s.compute i f.z .no (usesShift f) fun t => t.result .int f.d f.n (regsOf f.w) (t.fun2 f.w false f.a f.b g)

/-- A word of class int with one source; the destination may be narrower. -/
def State.alu1 (s : State) (i : Instr) (f : AW) (wd : Bool) (g : DWord → DWord) : Host.Outcome State Fault Refusal :=
  s.compute i f.z .no [srcP f.a f.w, dstP f.d wd] fun t => t.result .int f.d f.n (regsOf wd) (t.fun1 f.w f.a g)

def execAdd (f : ABW) (s : State) := s.alu (.add f) f (at2 f.w (· + ·) (· + ·))
def execSub (f : ABW) (s : State) := s.alu (.sub f) f (at2 f.w (· - ·) (· - ·))
def execAnd (f : ABW) (s : State) := s.alu (.and f) f (at2 f.w (· &&& ·) (· &&& ·))
def execOr (f : ABW) (s : State) := s.alu (.or f) f (at2 f.w (· ||| ·) (· ||| ·))
def execXor (f : ABW) (s : State) := s.alu (.xor f) f (at2 f.w (· ^^^ ·) (· ^^^ ·))
def execAndn (f : ABW) (s : State) := s.alu (.andn f) f (at2 f.w (fun a b => a &&& ~~~b) (fun a b => a &&& ~~~b))
def execOrn (f : ABW) (s : State) := s.alu (.orn f) f (at2 f.w (fun a b => a ||| ~~~b) (fun a b => a ||| ~~~b))
def execShl (f : ABW) (s : State) := s.aluShift (.shl f) f (shiftL f.w)
def execShr (f : ABW) (s : State) := s.aluShift (.shr f) f (shiftR f.w)
def execSar (f : ABW) (s : State) := s.aluShift (.sar f) f (shiftS f.w)
def execRol (f : ABW) (s : State) := s.aluShift (.rol f) f (rotateL f.w)
def execMin (f : ABW) (s : State) := s.alu (.min f) f (at2 f.w sminOf sminOf)
def execMax (f : ABW) (s : State) := s.alu (.max f) f (at2 f.w smaxOf smaxOf)
def execMinu (f : ABW) (s : State) := s.alu (.minu f) f (at2 f.w uminOf uminOf)
def execMaxu (f : ABW) (s : State) := s.alu (.maxu f) f (at2 f.w umaxOf umaxOf)
def execAbs (f : AW) (s : State) := s.alu1 (.abs f) f f.w fun a => if f.w then absOf a else up (absOf (low a))
def execNeg (f : AW) (s : State) := s.alu1 (.neg f) f f.w fun a => if f.w then 0 - a else up (0 - low a)
def execSext (f : ABW) (s : State) := s.aluShift (.sext f) f (sextBit f.w)

/-! Immediate forms (R204, R205). -/

/-- A word of format I: one source and the extended immediate. -/
def State.aluImm (s : State) (i : Instr) (f : ImmOp) (signed : Bool) (g : Word → Word → Word) :
    Host.Outcome State Fault Refusal :=
  s.compute i f.z .no [src1 f.a, dstP f.d false] fun t =>
    t.result .int f.d f.n 1 (t.fun1 false f.a fun a => up (g (low a) (t.imm signed f.imm)))

/-- An immediate shift. -/
def State.aluShImm (s : State) (i : Instr) (f : ShOp) (g : DWord → DWord → DWord) : Host.Outcome State Fault Refusal :=
  s.compute i f.z .no [src1 f.a, dstP f.d false] fun t =>
    t.result .int f.d f.n 1 (t.fun1 false f.a fun a => g a (f.c.setWidth 64))

def execAddImm (f : ImmOp) (s : State) := s.aluImm (.addImm f) f true (· + ·)
def execAndImm (f : ImmOp) (s : State) := s.aluImm (.andImm f) f false (· &&& ·)
def execOrImm (f : ImmOp) (s : State) := s.aluImm (.orImm f) f false (· ||| ·)
def execXorImm (f : ImmOp) (s : State) := s.aluImm (.xorImm f) f false (· ^^^ ·)
def execShlImm (f : ShOp) (s : State) := s.aluShImm (.shlImm f) f (shiftL false)
def execShrImm (f : ShOp) (s : State) := s.aluShImm (.shrImm f) f (shiftR false)
def execSarImm (f : ShOp) (s : State) := s.aluShImm (.sarImm f) f (shiftS false)
def execRolImm (f : ShOp) (s : State) := s.aluShImm (.rolImm f) f (rotateL false)

/-! Multiply and divide (R206 to R209). -/

/-- A word of class mul with W allowed, all operands of one width. -/
def State.mulW (s : State) (i : Instr) (f : ABW) (g : DWord → DWord → DWord) : Host.Outcome State Fault Refusal :=
  s.compute i f.z .no (usesABW f) fun t => t.result .mul f.d f.n (regsOf f.w) (t.fun2 f.w f.w f.a f.b g)

/-- A 32-bit word of class mul. -/
def State.mul32 (s : State) (i : Instr) (f : AB) (g : Word → Word → Word) : Host.Outcome State Fault Refusal :=
  s.compute i f.z .no [src1 f.a, src1 f.b, dstP f.d false] fun t =>
    t.result .mul f.d f.n 1 (t.fun2 false false f.a f.b fun a b => up (g (low a) (low b)))

/-- A 32-bit word of class mul that reads its destination. -/
def State.mad32 (s : State) (i : Instr) (f : AB) (g : Word → Word → Word → Word) : Host.Outcome State Fault Refusal :=
  s.compute i f.z .no [src1 f.a, src1 f.b, src1 f.d, dstP f.d false] fun t =>
    t.result .mul f.d f.n 1 (t.fun3 false false f.a f.b f.d fun a b d => up (g (low a) (low b) (low d)))

/-- A word of major 0x04: single sources, a pair destination. -/
def State.wide (s : State) (i : Instr) (f : AB) (g : Word → Word → DWord) : Host.Outcome State Fault Refusal :=
  s.compute i f.z .no [src1 f.a, src1 f.b, dstP f.d true] fun t =>
    t.result .mul f.d f.n 2 (t.fun2 false false f.a f.b fun a b => g (low a) (low b))

/-- A word of major 0x04 that adds its destination. -/
def State.wideAdd (s : State) (i : Instr) (f : AB) (g : Word → Word → DWord) : Host.Outcome State Fault Refusal :=
  s.compute i f.z .no [src1 f.a, src1 f.b, srcP f.d true, dstP f.d true] fun t =>
    t.result .mul f.d f.n 2 (t.fun3 false true f.a f.b f.d fun a b d => g (low a) (low b) + d)

def execMul (f : ABW) (s : State) := s.mulW (.mul f) f (at2 f.w (· * ·) (· * ·))
def execMulh (f : AB) (s : State) := s.mul32 (.mulh f) f fun a b => ((a.signExtend 64 * b.signExtend 64) >>> 32).setWidth 32
def execMulhu (f : AB) (s : State) := s.mul32 (.mulhu f) f fun a b => ((up a * up b) >>> 32).setWidth 32
def execMad (f : AB) (s : State) := s.mad32 (.mad f) f fun a b d => a * b + d
def execMulw (f : AB) (s : State) := s.wide (.mulw f) f fun a b => a.signExtend 64 * b.signExtend 64
def execMulwu (f : AB) (s : State) := s.wide (.mulwu f) f fun a b => up a * up b
def execMadw (f : AB) (s : State) := s.wideAdd (.madw f) f fun a b => a.signExtend 64 * b.signExtend 64
def execMadwu (f : AB) (s : State) := s.wideAdd (.madwu f) f fun a b => up a * up b

/-- A divide at one width with the cases of Table 12.4: the result and the STATUS bits (bit 0 DZ, bit 1 OV). -/
def divide {n : Nat} (signed rem : Bool) (a b : BitVec n) : BitVec n × BitVec 2 :=
  if b = 0 then
    (if rem then a else if signed && decide (a.toInt < 0) then 1 else BitVec.allOnes n, 1)
  else if signed then
    if a = BitVec.intMin n ∧ b = BitVec.allOnes n then (if rem then 0 else a, 2)
    else (BitVec.ofInt n (if rem then a.toInt.tmod b.toInt else a.toInt.tdiv b.toInt), 0)
  else (BitVec.ofNat n (if rem then a.toNat % b.toNat else a.toNat / b.toNat), 0)

def divideAt (signed rem w : Bool) (a b : DWord) : DWord × BitVec 2 :=
  if w then divide signed rem a b
  else let x := divide signed rem (low a) (low b); (up x.1, x.2)

/-- The STATUS bits that the active lanes set (helper lanes set none, R198). -/
def Team.divBits (t : Team) (signed rem : Bool) (f : ABW) : List (Nat × BitVec 2) :=
  t.active.map fun l => (l, (divideAt signed rem f.w (t.read f.w l f.a).val (t.read f.w l f.b).val).2)

/-- The team after a divide: results, latch and STATUS bits. -/
def Team.divided (t : Team) (signed rem : Bool) (f : ABW) : Team :=
  (t.divBits signed rem f).foldl (fun u x => u.orStatus x.1 x.2)
    (t.result .mul f.d f.n (regsOf f.w) (t.fun2 f.w f.w f.a f.b fun a b => (divideAt signed rem f.w a b).1))

/-- The trap of R209, if a lane set a bit whose enable is 1. -/
def Team.divTrap (t : Team) (signed rem : Bool) (f : ABW) : Option Trap :=
  let bits_ := t.divBits signed rem f
  let dz := bits_.filter fun x => x.2.getLsbD 0
  let ov := bits_.filter fun x => x.2.getLsbD 1
  if t.trapen.getLsbD 0 && !dz.isEmpty then
    some { cause := .dz, kind := .completed, mask := some (maskOf (dz.map (·.1))) }
  else if t.trapen.getLsbD 1 && !ov.isEmpty then
    some { cause := .ov, kind := .completed, mask := some (maskOf (ov.map (·.1))) }
  else none

/-- A divide or remainder. A completed trap is taken after the word, whose packets are written with it (R55, R209). -/
def State.divOp (s : State) (i : Instr) (f : ABW) (signed rem : Bool) : Host.Outcome State Fault Refusal :=
  s.issue i f.z .no (usesABW f) fun c t tm s =>
    let s' := s.setTeam c t (tm.divided signed rem f)
    match tm.divTrap signed rem f with
    | some k =>
      let s' := (s'.announced c t).modTeam c t fun u => { u with look := u.look + 1 }
      (s'.raise? c t k).getD s
    | none => s'.finish c t f.z

def execDiv (f : ABW) (s : State) := s.divOp (.div f) f true false
def execDivu (f : ABW) (s : State) := s.divOp (.divu f) f false false
def execRem (f : ABW) (s : State) := s.divOp (.rem f) f true true
def execRemu (f : ABW) (s : State) := s.divOp (.remu f) f false true

/-! Bit operations (R210, R211). -/

/-- Leading zeros of an n-bit number. -/
def clzNat (n x : Nat) : Nat := if x = 0 then n else n - 1 - Nat.log2 x
def popcount (n x : Nat) : Nat := (List.range n).foldl (fun a i => a + bits x i 1) 0
def revNat (n x : Nat) : Nat := (List.range n).foldl (fun a i => 2 * a + bits x i 1) 0
def width (w : Bool) : Nat := if w then 64 else 32
def ofNat64 (x : Nat) : DWord := BitVec.ofNat 64 x
def natAt (w : Bool) (a : DWord) : Nat := if w then a.toNat else (low a).toNat

def execClz (f : AW) (s : State) := s.alu1 (.clz f) f false fun a => ofNat64 (clzNat (width f.w) (natAt f.w a))
def execPopc (f : AW) (s : State) := s.alu1 (.popc f) f false fun a => ofNat64 (popcount (width f.w) (natAt f.w a))
def execBrev (f : AW) (s : State) := s.alu1 (.brev f) f f.w fun a => ofNat64 (revNat (width f.w) (natAt f.w a))

/-- The field of R211: its position, and its length cut at bit 31. -/
def fieldOf (b : Word) : Nat × Nat :=
  let pos := bits b.toNat 0 6
  (pos, if 32 ≤ pos then 0 else min (bits b.toNat 8 6) (32 - pos))

def bfxuOf (a b : Word) : Word := BitVec.ofNat 32 (a.toNat / 2 ^ (fieldOf b).1 % 2 ^ (fieldOf b).2)
def bfxOf (a b : Word) : Word := if (fieldOf b).2 = 0 then 0 else signFrom (bfxuOf a b) ((fieldOf b).2 - 1)
def bfiOf (a b d : Word) : Word :=
  let m : Word := BitVec.ofNat 32 (2 ^ (fieldOf b).2 - 1)
  (d &&& ~~~(m <<< (fieldOf b).1)) ||| ((a &&& m) <<< (fieldOf b).1)

/-- A 32-bit word of class int with two sources. -/
def State.int32 (s : State) (i : Instr) (f : AB) (g : Word → Word → Word) : Host.Outcome State Fault Refusal :=
  s.compute i f.z .no [src1 f.a, src1 f.b, dstP f.d false] fun t =>
    t.result .int f.d f.n 1 (t.fun2 false false f.a f.b fun a b => up (g (low a) (low b)))

def execBfx (f : AB) (s : State) := s.int32 (.bfx f) f bfxOf
def execBfxu (f : AB) (s : State) := s.int32 (.bfxu f) f bfxuOf
def execBfi (f : AB) (s : State) :=
  s.compute (.bfi f) f.z .no [src1 f.a, src1 f.b, src1 f.d, dstP f.d false] fun t =>
    t.result .int f.d f.n 1 (t.fun3 false false f.a f.b f.d fun a b d => up (bfiOf (low a) (low b) (low d)))

/-! Compare and select (R205, R212, R213). -/

def Team.flagsOf (t : Team) (g : Nat → Bool) : List (Nat × Bool) := t.parts.map fun l => (l, g l)

def execCmp (k : BitVec 3) (c : Cond) (a b : Opd) (w z : Bool) (s : State) :=
  s.compute (.cmp k c a b w z) z .no [srcP a w, srcP b w] fun t =>
    t.setFlags k (t.flagsOf fun l => condHolds c w (t.read w l a).val (t.read w l b).val)

def execCmpImm (k c : BitVec 3) (a : Opd) (imm : BitVec 12) (z : Bool) (s : State) :=
  s.compute (.cmpImm k c a imm z) z .no [src1 a] fun t =>
    t.setFlags k (t.flagsOf fun l => condHolds (immCond c) false (t.read false l a).val (up (t.imm true imm)))

def execSel (f : ABW) (k : BitVec 3) (s : State) :=
  s.compute (.sel f k) f.z .no (usesABW f) fun t =>
    t.result .int f.d f.n (regsOf f.w) (t.each fun l =>
      let x := t.read f.w l f.a
      let y := t.read f.w l f.b
      ⟨if t.flag l k then x.val else y.val, x.taint || y.taint⟩)

/-! Moves, windows, flags and addresses (R214 to R217). -/

def execMov (f : AW) (s : State) := s.alu1 (.mov f) f f.w id

def execMovi (d : Opd) (imm : BitVec 12) (n z : Bool) (s : State) :=
  s.compute (.movi d imm n z) z .no [dstP d false] fun t =>
    t.result .int d n 1 (t.each fun _ => ⟨up (t.imm true imm), false⟩)

def execSetix (a : Opd) (z : Bool) (s : State) :=
  s.compute (.setix a z) z .no [srcOnce a] fun t => { t with ix := (t.read32 t.first a).setWidth 9 }

def execSetsix (a : Opd) (z : Bool) (s : State) :=
  s.compute (.setsix a z) z .no [srcOnce a] fun t => { t with six := (t.read32 t.first a).setWidth 6 }

def execSetixImm (imm : BitVec 9) (z : Bool) (s : State) :=
  s.compute (.setixImm imm z) z .no [] fun t => { t with ix := imm }

def execSetsixImm (imm : BitVec 6) (z : Bool) (s : State) :=
  s.compute (.setsixImm imm z) z .no [] fun t => { t with six := imm }

def execKand (f : K3) (s : State) :=
  s.compute (.kand f) f.z .no [] fun t => t.setFlags f.d (t.flagsOf fun l => t.flag l f.a && t.flag l f.b)
def execKor (f : K3) (s : State) :=
  s.compute (.kor f) f.z .no [] fun t => t.setFlags f.d (t.flagsOf fun l => t.flag l f.a || t.flag l f.b)
def execKnot (f : K2) (s : State) :=
  s.compute (.knot f) f.z .no [] fun t => t.setFlags f.d (t.flagsOf fun l => !t.flag l f.a)
def execKmov (f : K2) (s : State) :=
  s.compute (.kmov f) f.z .no [] fun t => t.setFlags f.d (t.flagsOf fun l => t.flag l f.a)

/-- LEA: the low word of the LEA word's own address plus the immediate. -/
def execLea (d : Opd) (imm : BitVec 12) (n z : Bool) (s : State) :=
  s.compute (.lea d imm n z) z .no [dstP d false] fun t =>
    t.result .addr d n 1 (t.each fun _ => ⟨up (low (t.pc + (t.imm true imm).signExtend 64)), false⟩)

end Sys2Proof.Machine
end

