-- ==== Sys2Proof/Machine/Loads.lean ====
section
/-! DEFINITION. Split-phase loads and gathers, their arrival, their faults and replays, ACNT, WAIT and WAITALL
(R141 to R158, R121 to R123, R97 to R99). -/

namespace Sys2Proof.Machine

def Size.bytes : Size → Nat
  | .b => 1 | .h => 2 | .w => 4 | .d => 8 | .q => 16

def Size.regs : Size → Nat
  | .d => 2 | .q => 4 | _ => 1

/-- A lane address of R141: base and offset on the address-high register, modulo 2^64. -/
def Team.address (t : Team) (base : Word) (off : DWord) : Nat :=
  ((t.addrhi.setWidth 64 <<< 32) + base.setWidth 64 + off).toNat

def nonCanonical (va : Nat) : Bool := decide (2 ^ 56 ≤ va)

/-- A trap of every lane of a list that fails one check, at the lowest lane's address (R60, R432). -/
def laneTrap (cause : Cause) (bad : List (Nat × Nat)) : Trap :=
  { cause := cause, kind := .precise, mask := some (maskOf (bad.map (·.1))), addr := (bad.headD (0, 0)).2 }

/-- The trap of the first failing lane, with every lane that fails alike (R432). -/
def firstTrap (bad : List (Nat × Nat × Cause × Word)) : Option Trap :=
  match bad with
  | [] => none
  | (l, a, cause, xf) :: r =>
    let same := (l, a, cause, xf) :: r.filter fun x => x.2.2.1 == cause && x.2.2.2 == xf
    some { cause := cause, kind := .precise, mask := some (maskOf (same.map (·.1))), addr := a, xfault := xf }

/-- The two checks on addresses, over every lane of every pass (R146, R302, R310). -/
def addrTrap (size : Nat) (lanes : List (Nat × Nat)) : Option Trap :=
  let mis := lanes.filter fun x => x.2 % size != 0
  let non := lanes.filter fun x => nonCanonical x.2
  if !mis.isEmpty then some (laneTrap .misaligned mis)
  else if !non.isEmpty then some (laneTrap .nonCanonical non)
  else none

/-! Fault entries (R122, R155, R172). -/

def insertLane (x : FaultLane) : List FaultLane → List FaultLane
  | [] => [x]
  | y :: r => if x.lane < y.lane then x :: y :: r else y :: insertLane x r

def FaultEntry.isFor (e : FaultEntry) (pass : Nat) (arrival : Bool) : Bool :=
  e.pass == pass && e.arrival == arrival && (match e.what with | .pass .. => true | .copy .. => false)

/-- A new entry, in the overflow area when all eight are in use. -/
def Team.putEntry (t : Team) (e : FaultEntry) : Team :=
  if t.faults.length < Config.faultEntries && t.overflow.isEmpty then { t with faults := t.faults ++ [e] }
  else { t with overflow := t.overflow ++ [e] }

/-- The entry of a pass for some of its lanes. -/
def OutPass.entry (p : OutPass) (arrival : Bool) (lanes : List FaultLane) : FaultEntry :=
  ⟨.pass p.seq p.warp p.dest p.size p.consume p.acq p.scope p.bypass p.p1 p.taint, p.id, arrival, p.pc, p.ac, lanes⟩

/-- A lane whose data failed to arrive: in the entry of the pass's failed arrivals, else in a new one (R155). -/
def Team.failArrival (t : Team) (p : OutPass) (x : FaultLane) : Team :=
  let add (e : FaultEntry) : FaultEntry := if e.isFor p.id true then { e with lanes := insertLane x e.lanes } else e
  if (t.faults ++ t.overflow).any (·.isFor p.id true) then
    { t with faults := t.faults.map add, overflow := t.overflow.map add }
  else t.putEntry (p.entry true [x])

/-- A lane of the pass, one lane apart, has still to be translated. -/
def OutPass.translating (p : OutPass) (but : Nat) : Bool := p.lanes.any fun x => x.lane != but && !x.helper && x.pa.isNone

/-- The one entry of a pass's failed translations, once every lane has been translated or has failed (R122). -/
def Team.closePass (t : Team) (id but : Nat) : Team :=
  match t.out.find? (·.id == id) with
  | some p =>
    if p.faulted.isEmpty || p.translating but then t
    else ({ t with out := t.out.map fun (q : OutPass) => if q.id = id then { q with faulted := [] } else q } : Team).putEntry (p.entry false p.faulted)
  | none => t

/-- A lane whose translation failed: kept with its pass until the pass's entry is written. -/
def Team.failWalk (t : Team) (id : Nat) (x : FaultLane) : Team :=
  ({ t with out := t.out.map fun (q : OutPass) =>
      if q.id = id then { q with faulted := insertLane x q.faulted } else q } : Team).closePass id x.lane

/-- The shown lane mask of an entry: the lanes with the first lane's cause and XFAULT (R432); none for a copy. -/
def FaultEntry.shown (e : FaultEntry) : Option LaneMask :=
  match e.what with
  | .copy .. => none
  | .pass .. => match e.lanes with
    | [] => none
    | x :: r => some (maskOf (((x :: r).filter fun y => y.cause == x.cause && y.xfault == x.xfault).map (·.lane)))

def FaultEntry.first (e : FaultEntry) : FaultLane := e.lanes.headD ⟨0, 0, false, false, .pageFault, 0⟩

/-- The deferred trap of an entry. -/
def FaultEntry.trap (e : FaultEntry) (kind : TrapKind) (ovf : Bool) : Trap :=
  { cause := e.first.cause, kind := kind, mask := e.shown, addr := e.first.va, xfault := e.first.xfault, ovf := ovf }

/-- The deferred trap of a team's first entry of which a test holds (R398). -/
def Team.entryTrap (t : Team) (g : FaultEntry → Bool) : Option Trap :=
  (t.faults.find? g).map fun e => { e.trap .deferred false with entry := some (t.faults.findIdx g) }

/-- The same over the overflow records too, which the handler does not see: at such a record it is shown the first entry, with
that entry's cause, address and XFAULT (R122, R398, entry 16). -/
def Team.recordTrap (t : Team) (g : FaultEntry → Bool) : Option Trap :=
  match t.entryTrap g with
  | some k => some k
  | none => if t.overflow.any g then t.entryTrap fun _ => true else none

/-! Arrival of lanes (R143). -/

/-- A lane leaves its pass; the pass counts when its last active lane has arrived. -/
def State.arriveLane (s : State) (c t pass lane : Nat) : State :=
  match s.team? c t with
  | none => s
  | some tm =>
    match tm.out.find? (·.id == pass) with
    | none => s
    | some p =>
      let rest := p.lanes.filter (·.lane != lane)
      let wasActive := p.lanes.any fun l => l.lane == lane && !l.helper
      let done := wasActive && !rest.any fun l => !l.helper
      let out := if rest.isEmpty then tm.out.filter (·.id != pass)
        else tm.out.map fun q => if q.id = pass then { q with lanes := rest } else q
      let tm := { tm with out := out }
      let tm := if done && p.counts then tm.bump p.ac 1 else tm
      let s := s.setTeam c t tm
      if done then s.acquire c t p.seq p.acq else s

/-- A lane that fails: recorded, and arrived; a helper lane's destination is then not defined (R147). -/
def State.failLane (s : State) (c t : Nat) (p : OutPass) (l : LaneReq) (arrival : Bool) (cause : Cause) (xf : Word) : State :=
  if l.helper then
    let s := s.tick
    let x := (Config.free64 s.fresh).toNat + 2 ^ 64 * (Config.free64 (s.fresh + 2 ^ 60)).toNat
    (s.modTeam c t fun tm => if l.writes then tm.putFor p.p1 l.lane p.dest false 0 x (if p.size ≤ 4 then 1 else p.size / 4) else tm).arriveLane c t p.id l.lane
  else
    let x : FaultLane := ⟨l.lane, l.va, l.writes, l.dep, cause, xf⟩
    (s.modTeam c t fun tm => if arrival then tm.failArrival p x else tm.failWalk p.id x).arriveLane c t p.id l.lane

/-! Issue (R146, R151). -/

/-- One lane of an outstanding pass changed. -/
def Team.modLane (t : Team) (pass lane : Nat) (g : LaneReq → LaneReq) : Team :=
  { t with out := t.out.map fun (q : OutPass) => if q.id = pass then
      { q with lanes := q.lanes.map fun (x : LaneReq) => if x.lane = lane then g x else x } else q }

/-- The home slice's read at its stack for a load that misses both caches. -/
def State.loadAsk (s : State) (c pa : Nat) : State :=
  match s.route pa with
  | .local_ a => if PMap.has (s.core c).l1 (a / 64) || s.l2Has (a / 64) then s else s.hbmAsk (a / 64) false
  | _ => s

/-- The translation of one lane of a pass: a TLB entry's answer, else a walk joined or begun (R118); with all the die's
walkers at work the lane waits for one (R117). A helper lane's fault is suppressed, a misaligned address among them (R147). -/
def State.startLane (s : State) (c t : Nat) (p : OutPass) (l : LaneReq) : State :=
  let ctx := s.ctxOf c
  if nonCanonical l.va || l.va % p.size != 0 then s.failLane c t p l false .nonCanonical 0
  else match l.fate, s.tlbHit c ctx l.va with
  | some f, _ => s.failLane c t p l false f.cause (xfaultWord f.kind .read f.level 0)
  | none, some e =>
    match s.leafAccess e l.va .read p.p1 with
    | .ok pa =>
      (s.modTeam c t fun tm => (tm.modLane p.id l.lane fun x => { x with pa := some pa }).closePass p.id 1024).loadAsk c pa
    | .error (cause, xf) => s.failLane c t p l false cause xf
  | none, none =>
    if (s.walks.any fun x => x.ctx == ctx && x.page == l.va / 2 ^ 16) || decide (Config.walkers ≤ (s.dieWalks c).length) then s
    else match s.walkerFor c with
      | (s, k) => { s with walks := s.walks ++ [Walk.mk ctx c (l.va / 2 ^ 16) k none] }

def State.startPass (s : State) (c t : Nat) (p : OutPass) : State :=
  let s := s.modTeam c t fun tm => { tm with out := tm.out ++ [p] }
  p.lanes.foldl (fun s l => s.startLane c t p l) s

def Dest.width (d : Dest) (size : Nat) : Nat :=
  match d with | .none => 0 | _ => if size ≤ 4 then 1 else size / 4

/-- What a split-phase load names beside its addresses. -/
structure LoadOp where
  d : Opd
  ac : Nat
  size : Nat
  consume : Bool
  deriving DecidableEq, Repr

/-- One pass of a load. -/
def Team.loadPass (t : Team) (o : LoadOp) (va : Nat → Nat) (dep : Nat → Bool) (id w : Nat) : OutPass :=
  let d := t.dest o.d
  { id := id, seq := t.seq, pc := t.wordPc, warp := w, ac := o.ac, dest := d, size := o.size, consume := o.consume
    acq := if t.scopeOf.2 = .acquire || t.scopeOf.2 = .acqrel then some t.scopeOf.1 else none
    scope := t.scopeOf.1, bypass := t.bypass, wide := t.ldcWide, p1 := t.p1, counts := true, taint := if o.consume then t.act else 0
    lanes := (t.parts.filter fun l => warpOf l == w).map fun l =>
      { lane := l, va := va l, pa := none, helper := !t.act.getLsbD l
        writes := match d with | .none => false | .lane _ => true | .uni _ => l == t.first
        dep := dep l, sent := false, fate := none }
    faulted := [] }

/-- The destinations of a pass: not to be read before a wait covers them, tainted by LDC (R63, R144, R157). -/
def Team.uncover (t : Team) (p : OutPass) (seed : Nat) : Team :=
  let ls := (p.lanes.filter (·.writes)).map (·.lane)
  let n := p.dest.width p.size
  let t := if p.consume then ls.foldl (fun t l => (List.range n).foldl (fun t i => match p.dest with
      | .lane r => { t with v := PMap.set t.v (1024 * l + (r + i)) { t.laneHeld l (r + i) with taint := true } }
      | .uni r => { t with u := PMap.set t.u (r + i) { t.uniHeld (r + i) with taint := p.taint } }
      | .none => t) t) t else t
  if ls.isEmpty then t else { t with unc := t.unc ++ [⟨p.id, p.ac, p.dest, n, maskOf ls, seed⟩] }

/-- Every pass of a load issued. -/
def State.loadAll (s : State) (c t : Nat) (tm : Team) (o : LoadOp) (va : Nat → Nat) (dep : Nat → Bool) : State :=
  let s := tm.warps.foldl (fun s w =>
    let s := s.tick
    let p := tm.loadPass o va dep s.fresh w
    (s.startPass c t p).modTeam c t fun u => u.uncover p s.fresh) s
  s.modTeam c t fun u => { u with seq := u.seq + 1, ldcWide := u.ldcWide || (o.consume && acquireDrops (some tm.scopeOf.1)) }

/-- The effect of a load: the checks over every lane, then the passes. -/
def State.loadEffect (s : State) (c t : Nat) (tm : Team) (z : Bool) (o : LoadOp) (va : Nat → Nat) (dep : Nat → Bool) : State :=
  if tm.fenced then s
  else match addrTrap o.size (tm.active.map fun l => (l, va l)) with
  | some k => s.raise c t k
  | none => (s.loadAll c t tm o va dep).finish c t z

/-- LD and LDC. -/
def State.load (s : State) (i : Instr) (f : LdF) (sz : Size) (consume : Bool) : Host.Outcome State Fault Refusal :=
  s.issue i f.z .no [src1 f.a, dstN f.d (Size.regs sz)] fun c t tm s =>
    s.loadEffect c t tm f.z ⟨f.d, f.ac.toNat, Size.bytes sz, consume⟩
      (fun l => tm.address (tm.read32 l f.a) (BitVec.ofNat 64 (f.off.toNat * Size.bytes sz)))
      fun l => (tm.read false l f.a).taint

/-- GATH: the offset is the signed index times the size. -/
def State.gath (s : State) (i : Instr) (f : GathF) (sz : Size) : Host.Outcome State Fault Refusal :=
  s.issue i f.z .no [src1 f.a, src1 f.b, dstN f.d (Size.regs sz)] fun c t tm s =>
    s.loadEffect c t tm f.z ⟨f.d, f.ac.toNat, Size.bytes sz, false⟩
      (fun l => tm.address (tm.read32 l f.a) ((tm.read32 l f.b).signExtend 64 * BitVec.ofNat 64 (Size.bytes sz)))
      fun l => (tm.read false l f.a).taint || (tm.read false l f.b).taint

def execLdB (f : LdF) (s : State) := s.load (.ldB f) f .b false
def execLdH (f : LdF) (s : State) := s.load (.ldH f) f .h false
def execLdW (f : LdF) (s : State) := s.load (.ldW f) f .w false
def execLdD (f : LdF) (s : State) := s.load (.ldD f) f .d false
def execLdQ (f : LdF) (s : State) := s.load (.ldQ f) f .q false
def execLdcB (f : LdF) (s : State) := s.load (.ldcB f) f .b true
def execLdcH (f : LdF) (s : State) := s.load (.ldcH f) f .h true
def execLdcW (f : LdF) (s : State) := s.load (.ldcW f) f .w true
def execLdcD (f : LdF) (s : State) := s.load (.ldcD f) f .d true
def execLdcQ (f : LdF) (s : State) := s.load (.ldcQ f) f .q true
def execGathW (f : GathF) (s : State) := s.gath (.gathW f) f .w
def execGathD (f : GathF) (s : State) := s.gath (.gathD f) f .d

/-! Landing (R149, R150, R158, R306, R127). -/

/-- A byte as a load of the team sees it (R149, R306): its own queued stores, the core's order, then the L1 or home. -/
def State.seenByte (s : State) (c : Nat) (tm : Team) (seq : Nat) (l1 : Bool) (a : Nat) : Byte :=
  let own := tm.sq.foldl (fun (v : Option Byte) e =>
    if e.seq < seq then match e.work with
      | .store ls => ls.foldl (fun v x =>
          let loc := match s.route x.pa with | .local_ q => q | _ => x.pa
          if loc ≤ a ∧ a < loc + x.bytes.length then x.bytes[a - loc]? else v) v
      | _ => v
    else v) none
  match own with
  | some b => b
  | none =>
    let ord := (s.core c).order.foldl (fun (v : Option Byte) w =>
      if s.localSector w = some (a / 64) then
        match PMap.get? w.bytes (a % 64) with | some b => some b | none => v
      else v) none
    match ord with
    | some b => b
    | none =>
      match if l1 then PMap.get? (s.core c).l1 (a / 64) else none with
      | some line => line.getD (a % 64) (s.homeByte a)
      | none => s.homeByte a

/-- A lane's data written to its destination (R145). -/
def Team.land (t : Team) (p : OutPass) (l : LaneReq) (x : Nat) : Team :=
  if l.writes then t.putFor p.p1 l.lane p.dest p.consume p.taint x (p.dest.width p.size) else t

/-- Teams of a core that have read bytes of a sector past an older L1 copy may read the new copy again. -/
def State.forgetSeen (s : State) (c sec : Nat) : State :=
  { s with teams := s.teams.map fun (p : Nat × Team) =>
      (p.1, if p.1 / 16 = c then { p.2 with homeSeen := p.2.homeSeen.filter (·.1 / 64 != sec) } else p.2) }

/-- A sector put into the L1 by a load that was served at the home slice. -/
def State.l1Load (s : State) (c sec : Nat) : State := (s.l1Fill c sec).forgetSeen c sec

/-- A local lane lands: from the L1, else from the home slice once it holds the sector, other cores' held copies of the
line recalled (R127, R317). A bypass read leaves an L1 copy as it is; a later load by the team of a byte it read does not
go back to that copy, which may be older (R149). A dependent load is served at the home slice where an LDC of DIE scope or
wider preceded it (R158). -/
def State.landLocal (s : State) (c t : Nat) (tm : Team) (p : OutPass) (l : LaneReq) (pa : Nat) : State :=
  let sec := pa / 64
  let cached := PMap.has (s.core c).l1 sec
  let hit := cached && !p.bypass && !(l.dep && p.wide) && !tm.homeSeen.any fun x => overlap x.1 x.2 pa p.size
  if !hit && !s.l2Has sec then s.hbmAsk sec false
  else
    let s := if hit then s else s.homeRead c sec
    if !hit && s.poisoned sec then s.failLane c t p l true .poisonedData 0
    else
      let s := if hit || p.bypass then s else s.l1Load c sec
      let x := leNat ((List.range p.size).map fun i => s.seenByte c tm p.seq hit (pa + i))
      ((s.modTeam c t fun tm => { tm.land p l x with
        homeSeen := if cached && p.bypass && !tm.homeSeen.contains (pa, p.size) then (pa, p.size) :: tm.homeSeen else tm.homeSeen }).acquired c t p.seq).arriveLane c t p.id l.lane

/-- Bytes that a load has from another device, under those of the core's stores that have still to reach it (R306). -/
def State.overOrder (s : State) (c pa : Nat) (bs : List Byte) : List Byte :=
  ((List.range bs.length).zip bs).map fun p =>
    ((s.core c).order.foldl (fun (v : Option Byte) w =>
      if w.sector = (pa + p.1) / 64 then (match PMap.get? w.bytes ((pa + p.1) % 64) with | some b => some b | none => v) else v) none).getD p.2

/-- LOAD_REPLY: a lane's data is determined and lands; a lane that waits for a walker tries again. A lane of another device's memory sends its request
first, and lands with the reply. -/
def execLoadReply (core team pass lane : Nat) (s : State) : Host.Outcome State Fault Refusal :=
  .next (match s.team? core team with
    | none => s
    | some tm =>
      match tm.out.find? (·.id == pass) with
      | none => s
      | some p =>
        match p.lanes.find? (·.lane == lane) with
        | none => s
        | some l =>
          match l.pa with
          | none => (s.startLane core team p l).settle
          | some pa =>
            if l.sent || !tm.mayLand p l then s
            else (match s.route pa with
              | .local_ a => s.landLocal core team tm p l a
              | .refused => s.failLane core team p l true .permission 0
              | .remote dev lpa =>
                if !s.sendable core team tm p l pa || !s.sectorFree core dev lpa then s
                else
                  match s.request dev (s.ctxOf core) lpa l.va (.load core team pass lane) (.read p.size) with
                  | (s, false) => s.failLane core team p l true .remoteTimeout 0
                  | (s, true) => s.modTeam core team fun tm => tm.modLane pass lane fun x => { x with sent := true }).settle)

/-! ACNT, WAIT, WAITALL (R152 to R155). -/

def execAcnt (ac : BitVec 4) (imm : BitVec 12) (z : Bool) (s : State) :=
  s.compute (.acnt ac imm z) z .no [] fun t =>
    { t with ac := PMap.set t.ac ac.toNat ((t.imm false imm).setWidth 16) }

/-- A pass has counted. -/
def Team.counted (t : Team) (pass : Nat) : Bool :=
  !t.out.any fun p => p.id == pass && p.lanes.any fun l => !l.helper

/-- Lanes of a counted pass whose data goes to a destination and has not landed: helper lanes. -/
def Team.landing (t : Team) (pass : Nat) : LaneMask :=
  maskOf ((t.out.filter (·.id == pass)).flatMap fun p => (p.lanes.filter (·.writes)).map (·.lane))

/-- The loads a completed wait covers become readable (R144). DESIGN CHOICE (entry 4): a helper lane's register whose data
has still to land stays not defined until a later wait covers it; the spec does not say what it reads. -/
def Team.cover (t : Team) (ac : Option Nat) : Team :=
  { t with unc := t.unc.filterMap fun (u : Uncov) =>
      if (match ac with | some a => u.ac == a | none => true) && t.counted u.pass then
        (let m := t.landing u.pass; if m = 0 then none else some { u with lanes := m })
      else some u }

/-- WAIT. -/
def execWait (ac : BitVec 4) (imm : BitVec 12) (s : State) :=
  s.issue (.wait ac imm) true .no [] fun c t tm s =>
    let th := (tm.imm false imm).toNat
    if th ≤ tm.acv ac.toNat then
      match tm.entryTrap (·.ac == ac.toNat) with
      | some k => s.raise c t k
      | none => (s.setTeam c t (tm.cover (some ac.toNat))).finish c t true
    else (s.announced c t).park c t ⟨.counter, ac.toNat, th⟩

/-- WAITALL. -/
def execWaitall (s : State) :=
  s.issue .waitall true .no [] fun c t tm s =>
    if !s.allDone c t tm then (s.announced c t).park c t ⟨.all, 0, 0⟩
    else match tm.entryTrap fun _ => true with
      | some k => s.raise c t k
      | none =>
        match tm.badAtomics with
        | some k => ((s.setTeam c t (tm.consumeBad k.cause)).raise? c t k).getD s
        | none => (s.setTeam c t (tm.cover none)).finish c t true

/-! Replay and discard (R123, R173, R399). -/

/-- A pass reissued for the lanes of its fault entry, as the team's next access: it sees the handler's stores and follows the
handler's acquires (R123, R412), and acts as an acquire where its load was one (R128, R150). -/
def FaultEntry.replayPass (e : FaultEntry) (id seq : Nat) (wide : Bool) : Option OutPass :=
  match e.what with
  | .pass _ warp dest size consume acq scope bypass p1 taint => some
      { id := id, seq := seq, pc := e.pc, warp := warp, ac := e.ac, dest := dest, size := size, consume := consume
        acq := acq, scope := scope, bypass := bypass, wide := wide, p1 := p1, counts := false, taint := taint
        lanes := e.lanes.map fun x => ⟨x.lane, x.va, none, false, x.writes, x.dep, false, none⟩
        faulted := [] }
  | .copy .. => none

/-- A copy reissued from its failing row on, once it has a place again (R162, R173): its accesses follow TRET, and so the
handler's stores and acquires (R169, R412). Its index list is read again from that row's batch; until then the entries read
before say which lines it keeps absent. DESIGN CHOICE (entry 47): lines of rows above that one which have been performed stay
present while they are written again. -/
def FaultEntry.replayCopy (e : FaultEntry) (id seq mark : Nat) : Option Copy :=
  match e.what with
  | .copy c row => some { c with
      id := id, seq := seq, admitted := false, started := false, mark := mark, issued := row, base := row, done := [], batch := row / 8
      ibuf := [], iwait := 0, ibad := false, flight := [], released := c.done.filter (row ≤ ·) ++ c.released
      failed := [], counts := false }
  | .pass .. => none

/-- Every element of every entry reissued, in order. DESIGN CHOICE (entry 31): a failed lane counts as performed for the store
queue, so stores that followed its load may have left before the replay, and the replay may return them. -/
def State.replayAll (s : State) (c t : Nat) : State :=
  match s.team? c t with
  | none => s
  | some tm =>
    let es := tm.faults ++ tm.overflow
    let s := s.setTeam c t { tm with faults := [], overflow := [], ovfHeld := 0 }
    es.foldl (fun s e =>
      let s := s.tick
      let seq := ((s.team? c t).map (·.seq)).getD 0
      let next (s : State) : State := s.modTeam c t fun u => { u with seq := u.seq + 1 }
      match e.replayPass s.fresh seq tm.ldcWide, e.replayCopy s.fresh seq tm.sync with
      | some p, _ => next (s.startPass c t p)
      | none, some x => next (s.modBlock c fun b => { b with copies := b.copies ++ [x] })
      | none, none => s) s

/-- Every entry discarded, with the effects of R173 on copies. -/
def State.discardAll (s : State) (c t : Nat) : State :=
  match s.team? c t with
  | none => s
  | some tm =>
    let es := tm.faults ++ tm.overflow
    let skipped := es.any fun e => match e.what with | .copy .. => true | .pass .. => false
    let s := es.foldl (fun s e => match e.what with
      | .copy x row => s.undefLines x c (x.owed.filter (row ≤ ·))
      | .pass .. => s) s
    (s.modTeam c t fun tm => { tm with
      faults := [], overflow := [], ovfHeld := 0, cestat := if skipped then tm.cestat ||| 2 else tm.cestat }).refreshPresence

end Sys2Proof.Machine
end

