-- ==== Sys2Proof/Machine/Ring.lean ====
section
/-! DEFINITION. Accesses that no store queue orders: reads and writes at home of COLLs, copies and the core
itself, and the trace ring (R128, R170, R323, R416 to R419). -/

namespace Sys2Proof.Machine

/-- A write of a core at a local address, applied at its home (R127, R170). -/
def State.writeAt (s : State) (c pa : Nat) (bs : List Byte) : State :=
  (sectorParts pa bs).foldl (fun s p => s.applyWrite c ⟨p.1, p.2, 0, 16, 0, 0, [], 0, 0⟩) s

/-- Sectors of a run. -/
def sectorsOf (pa n : Nat) : List Nat := (List.range ((pa + n + 63) / 64 - pa / 64)).map (pa / 64 + ·)

/-- The bytes a local address holds at home, read for a core; those of a poisoned sector are free (entry 4). -/
def State.readAt (s : State) (c pa n : Nat) : State × List Byte :=
  let s := ((sectorsOf pa n).foldl (fun s x => s.homeRead c x) s).tick
  (s, (List.range n).map fun i =>
    if s.poisoned ((pa + i) / 64) then (Config.free64 (s.fresh * 2 ^ 22 + i)).setWidth 8 else s.homeByte (pa + i))

/-- An extent's pieces within smallest pages. -/
def pageParts (va len : Nat) : List (Nat × Nat) :=
  let n := min len (2 ^ 16 - va % 2 ^ 16)
  if len ≤ n then [(va, len)] else [(va, n), (va + n, len - n)]

/-- A piece of an extent once translated: its address, its physical address and its length, and the level and the page size of
the leaf that translates it. -/
structure LeafPiece where
  va : Nat
  pa : Nat
  len : Nat
  level : Nat
  ps : Nat
  deriving DecidableEq, Repr

/-- The pieces of an extent translated in order; the first that fails gives the trap. -/
def State.leafPieces (s : State) (c : Nat) (p1 : Bool) (acc : Access) : List (Nat × Nat) → State × Except Trap (List LeafPiece)
  | [] => (s, .ok [])
  | x :: r =>
    match s.findLeaf c (s.ctxOf c) x.1 with
    | (s, w) => match s.leafAnswer w x.1 acc p1, w with
      | .ok pa, .ok e => match s.leafPieces c p1 acc r with
        | (s, .error k) => (s, .error k)
        | (s, .ok l) => (s, .ok (⟨x.1, pa, x.2, e.level, e.ps⟩ :: l))
      | .error e, _ => (s, .error { cause := e.1, kind := .precise, addr := x.1, xfault := e.2 })
      | .ok _, .error _ => (s, .ok [])

/-- The physical runs of translated pieces: address and length. -/
def runsOf (l : List LeafPiece) : List (Nat × Nat) := l.map fun p => (p.pa, p.len)

/-- A run of at most 64 bytes cut where it leaves its sector. -/
def sectorCuts (va len : Nat) : List (Nat × Nat) :=
  let n := 64 - va % 64
  if len ≤ n then [(va, len)] else [(va, n), (va + n, len - n)]

/-! The trace ring. -/

/-- How a store of the core itself ends: made, so far as it lies in this device's memory, with some requests sent to others; not
possible; or waiting for an earlier request to its sector (R97). -/
inductive Poke where
  | made (sent : Nat)
  | fail | busy
  deriving DecidableEq, Repr

/-- Parts of a store of the core itself put at their physical addresses, all of which can be reached; `n` requests have been
sent before. -/
def State.pokeParts (s : State) (c va : Nat) (ptr : Bool) (n : Nat) : List (Nat × Nat) → List Byte → State × Poke
  | [], _ => (s, .made n)
  | x :: r, bs => match s.route x.1 with
    | .local_ a => (s.writeAt c a (bs.take x.2)).pokeParts c (va + x.2) ptr n r (bs.drop x.2)
    | .refused => (s, .fail)
    | .remote dev lpa => match s.request dev (s.ctxOf c) lpa va (.trace c true ptr) (.write (bs.take x.2)) with
      | (s, true) => s.pokeParts c (va + x.2) ptr (n + 1) r (bs.drop x.2)
      | (s, false) => (s, .fail)

/-- A physical address at which a store of the core itself may be made now, or cannot be made at all. -/
def State.pokeAt (s : State) (c pa : Nat) : Poke :=
  match s.route pa with
  | .local_ _ => .made 0
  | .refused => .fail
  | .remote dev lpa => if s.unreachable.contains dev then .fail else if s.sectorFree c dev lpa then .made 1 else .busy

/-- The core's own store of at most 64 bytes with the rights of a P1 write, of a packet or of WRPTR and LOST: every part is
translated before one is written (R34, R417). -/
def State.poke (s : State) (c va : Nat) (ptr : Bool) (bs : List Byte) : State × Poke :=
  if nonCanonical va || nonCanonical (va + bs.length - 1) then (s, .fail)
  else match s.leafPieces c true .write (sectorCuts va bs.length) with
  | (s, .error _) => (s, .fail)
  | (s, .ok l) =>
    if l.any fun x => s.pokeAt c x.pa == .fail then (s, .fail)
    else if l.any fun x => s.pokeAt c x.pa == .busy then (s, .busy)
    else s.pokeParts c va ptr 0 (runsOf l) bs

def State.modTrace (s : State) (c : Nat) (f : Trace → Trace) : State := s.modCore c fun x => { x with trace := f x.trace }

/-- A packet that stands in the ring: WRPTR passes it. -/
def Trace.keep (tr : Trace) : Trace := { tr with wrptr := tr.wrptr + 8, stale := true }

/-- One answer to the packet whose write is at another device: with the last of them it stands in the ring, or it is lost
(R417). -/
def Trace.answer (tr : Trace) (bad : Bool) : Trace :=
  let tr := { tr with waits := tr.waits - 1, bad := tr.bad || bad }
  if tr.waits != 0 then tr
  else (if tr.bad then tr.drop else tr.keep) |> fun x => { x with bad := false }

/-- Packets put into the ring in their order, up to a number: those of earlier cycles, since a cycle's own order is known
only at its end (R419), or all. One that has to wait, and one whose write is still to be answered, keep those behind them: no
packet below WRPTR is unwritten (R417). -/
def State.ringRun (s : State) (c : Nat) (all : Bool) : Nat → State
  | 0 => s
  | n + 1 =>
    let tr := (s.core c).trace
    match tr.buf with
    | [] => s
    | p :: r =>
      if tr.waits != 0 || (!all && p.cycle == s.cycle) then s
      else match s.poke c (tr.base.toNat + tr.wrptr.toNat % 2 ^ tr.log2) false (natLe 8 p.word.toNat) with
        | (s, .busy) => s
        | (s, .made 0) => (s.modTrace c fun tr => { tr with buf := r }.keep).ringRun c all n
        | (s, .made k) => s.modTrace c fun tr => { tr with buf := r, waits := k }
        | (s, .fail) => (s.modTrace c fun tr => { tr with buf := r }.drop).ringRun c all n

/-- The place of the copy engine's packets, and of LOST, in a cycle (R419). -/
def lastRank : Nat := 5

/-- A LOST packet once space has returned to a buffer that a packet found full; a packet whose write failed is counted
alone (R417, entry 49). -/
def State.emitLost (s : State) (c : Nat) : State :=
  let tr := (s.core c).trace
  if !tr.lostDue || tracePkts ≤ tr.held then s
  else (s.modTrace c fun tr => { tr with lostNow := 0, lostDue := false }).emitAt c lastRank 11 (16 * min tr.lostNow 0xFFFFFFFF)

/-- WRPTR and LOST stored into the trace table's entry, as a release at DEVICE scope (R417); where they cannot be, they are still
to be stored. -/
def State.storeWrptr (s : State) (c : Nat) : State × Poke :=
  let s := s.flushOrder c
  let tr := (s.core c).trace
  match s.poke c (tr.entry.toNat + 12) true (natLe 8 tr.wrptr.toNat ++ natLe 4 tr.lost) with
  | (s, .made k) => (s.modTrace c fun tr => { tr with stale := false }, .made k)
  | x => x

/-- WRPTR and LOST stored where they have changed since. -/
def State.storeStale (s : State) (c : Nat) : State := if (s.core c).trace.stale then (s.storeWrptr c).1 else s

/-- At most 64 packets of the buffer written, then WRPTR and LOST where they have changed; nothing is written while the store of
WRPTR would have to wait for an earlier one (R417, R97). -/
def State.traceFlush (s : State) (c : Nat) (all : Bool) : State :=
  let tr := (s.core c).trace
  if !tr.on || (tr.buf.isEmpty && !tr.lostDue && !tr.stale) then s
  else match s.storeWrptr c with
    | (_, .busy) => s
    | _ => ((s.ringRun c all tracePkts).storeStale c).emitLost c

/-- Everything the buffer holds written, a last LOST packet with it. -/
def State.traceAll (s : State) (c : Nat) : State := (s.traceFlush c true).traceFlush c true

/-- Packets of the core's block have still to be written, or are on their way to another device. -/
def State.tracing (s : State) (c : Nat) : Bool := (s.core c).trace.on && (s.core c).trace.held != 0

/-- What the buffer still holds, and a write that is still to be answered, counted as lost. -/
def Trace.giveUp (tr : Trace) : Trace :=
  if tr.held = 0 then tr else { tr with lost := min (tr.lost + tr.held) 0xFFFFFFFF, buf := [], waits := 0, stale := true }

end Sys2Proof.Machine
end

