-- ==== Sys2Proof/Machine/Stores.lean ====
section
/-! DEFINITION. Stores, atomics, FENCE and COLL, the leaving of store-queue entries, the requests of a home slice
and the completion of COLLs (R296 to R329, R97 to R101, R106, R107). -/

namespace Sys2Proof.Machine

/-! The checks every lane passes before any lane acts (R302, R304, R310, R315). -/

/-- The leaf of every lane's address found, in lane order. -/
def State.leafLanes (s : State) (c : Nat) : List (Nat × Nat) → State × List (Nat × Nat × WalkRes)
  | [] => (s, [])
  | x :: r =>
    match s.findLeaf c (s.ctxOf c) x.2 with
    | (s, w) => match s.leafLanes c r with
      | (s, l) => (s, (x.1, x.2, w) :: l)

/-- Whether a failed translation failed before the check of its domain address (R304). -/
def WalkRes.rightsFail (w : WalkRes) (acc : Access) (p1 : Bool) : Bool :=
  match w with
  | .ok e => !e.allows acc p1
  | .error _ => true

/-- Lanes with their addresses and physical addresses, or the trap of the first check that fails. -/
def State.accessLanes (s : State) (c : Nat) (p1 : Bool) (acc : Access) (size : Nat) (lanes : List (Nat × Nat)) :
    State × Except Trap (List (Nat × Nat × Nat)) :=
  match addrTrap size lanes with
  | some k => (s, .error k)
  | none =>
    match s.leafLanes c lanes with
    | (s, l) =>
      let fails (l : List (Nat × Nat × WalkRes)) : List (Nat × Nat × Cause × Word) :=
        l.filterMap fun x => match s.leafAnswer x.2.2 x.2.1 acc p1 with
          | .error e => some (x.1, x.2.1, e.1, e.2)
          | .ok _ => none
      let early := fails (l.filter fun x => x.2.2.rightsFail acc p1)
      match firstTrap (if early.isEmpty then fails l else early) with
      | some k => (s, .error k)
      | none => (s, .ok (l.filterMap fun x => match s.leafAnswer x.2.2 x.2.1 acc p1 with
          | .ok pa => some (x.1, x.2.1, pa)
          | .error _ => none))

/-! Failed stores (R100). -/

/-- A word that is a point of R100 raises the recorded failure of the team's remote stores, once all are answered where it
waits for them: the state the word then leaves instead of its own effect. -/
def State.failGate (s : State) (c t : Nat) (tm : Team) (waits : Bool) : Option State :=
  if !s.teamRemoteQuiet c t tm && waits then some s
  else match tm.failTrap with
    | some (k, tm') => some (((s.setTeam c t tm').raise? c t k).getD s)
    | none => none

/-- The same for a release at DOMAIN or SYSTEM scope. -/
def State.releaseGate (s : State) (c t : Nat) (tm : Team) (rel : Option Scope) (waits : Bool) : Option State :=
  if wideScope rel then s.failGate c t tm waits else none

/-- The scope of a word's release, and of its acquire (R301, R307, R312). -/
def Team.relOf (t : Team) (q : Bool) : Option Scope :=
  if q || t.scopeOf.2 = .release || t.scopeOf.2 = .acqrel then some t.scopeOf.1 else none
def Team.acqOf (t : Team) : Option Scope :=
  if t.scopeOf.2 = .acquire || t.scopeOf.2 = .acqrel then some t.scopeOf.1 else none

/-- One entry at the end of a team's queue. -/
def Team.enqueue (t : Team) (e : SqEntry) : Team := { t with sq := t.sq ++ [e] }

/-- The queue has room for every pass; a full queue idles the datapath (R305). -/
def Team.sqRoom (t : Team) (n : Nat) : Bool := decide (t.sq.length + n ≤ Config.storeQueue)

/-- The passes of a memory word that takes queue entries: the checks, a failure recorded by now where the word is a release at
DOMAIN or SYSTEM scope, the room, then one entry for each pass. Such a release does not wait at its issue (R307, entry 29). -/
def State.queued (s : State) (c t : Nat) (tm : Team) (z : Bool) (acc : Access) (size : Nat) (rel : Option Scope)
    (va : Nat → Nat) (push : List (Nat × Nat × Nat) → State → State) : State :=
  if tm.fenced then s
  else match s.accessLanes c tm.p1 acc size (tm.active.map fun l => (l, va l)) with
  | (s, .error k) => s.raise c t k
  | (s, .ok pas) =>
    match s.releaseGate c t tm rel false with
    | some s => s
    | none =>
      if !tm.sqRoom tm.warps.length then s
      else
        let s := tm.warps.foldl (fun s w => push (pas.filter fun x => warpOf x.1 == w) s) s
        (s.modTeam c t fun u => { u with seq := u.seq + 1 }).finish c t z

/-! ST (R300 to R303). -/

/-- One pass of a store. -/
def State.pushStore (c t : Nat) (tm : Team) (f : StF) (sz : Size) (ls : List (Nat × Nat × Nat)) (s : State) : State :=
  s.modTeam c t fun u => u.enqueue
    { seq := tm.seq
      work := .store (ls.map fun x =>
        ⟨x.1, x.2.1, x.2.2, natLe (Size.bytes sz) (tm.readWide (Size.regs sz) x.1 f.d).toNat⟩)
      rel := tm.relOf f.q
      acq := none
      pc := tm.wordPc
      p1 := tm.p1 }

/-- ST. -/
def State.store (s : State) (i : Instr) (f : StF) (sz : Size) : Host.Outcome State Fault Refusal :=
  s.issue i f.z .no [src1 f.a, srcN f.d (Size.regs sz)] fun c t tm s =>
    s.queued c t tm f.z .write (Size.bytes sz) (tm.relOf f.q)
      (fun l => tm.address (tm.read32 l f.a) (BitVec.ofNat 64 (f.off.toNat * Size.bytes sz)))
      (State.pushStore c t tm f sz)

def execStB (f : StF) (s : State) := s.store (.stB f) f .b
def execStH (f : StF) (s : State) := s.store (.stH f) f .h
def execStW (f : StF) (s : State) := s.store (.stW f) f .w
def execStD (f : StF) (s : State) := s.store (.stD f) f .d
def execStQ (f : StF) (s : State) := s.store (.stQ f) f .q

/-! ATOM, ARED, CAS128 (R308 to R316). -/

def aredAtom : AredOp → AtomOp
  | .add => .add | .min => .min | .max => .max | .and => .and | .or => .or | .xor => .xor

/-- One pass of an atomic: its entry, and its result still to come where it returns one. `tnt` tells the lanes that read a
tainted source (R157). -/
def State.pushAtomic (c t : Nat) (tm : Team) (w : AtomWork) (ret : Bool) (d : Dest) (regs : Nat)
    (y cmp : Nat → BitVec 128) (tnt : Nat → Bool) (ls : List (Nat × Nat × Nat)) (s : State) : State :=
  let s := s.tick
  s.modTeam c t fun u =>
    let u := u.enqueue
      { seq := tm.seq
        work := .atomic s.fresh w ret (ls.map fun x => ⟨x.1, x.2.1, x.2.2, y x.1, cmp x.1⟩)
        rel := tm.relOf false
        acq := tm.acqOf
        pc := tm.wordPc
        p1 := tm.p1 }
    if ret then
      { u with atoms := u.atoms ++ [⟨s.fresh, tm.seq, tm.wordPc, d, regs, ls.map (·.1), [], [], (ls.map (·.1)).filter tnt, tm.acqOf, tm.p1⟩] }
    else u

/-- The address of an atomic's lane. -/
def Team.atomAddr (t : Team) (a : Opd) (l : Nat) : Nat := t.address (t.read32 l a) 0

/-- ATOM. -/
def execAtom (f : ABW) (op : AtomOp) (s : State) : Host.Outcome State Fault Refusal :=
  s.issue (.atom f op) f.z .no
    ([src1 f.a, srcP f.b f.w, dstP f.d f.w] ++ (if op = .cas then [srcP f.d f.w] else [])) fun c t tm s =>
    s.queued c t tm f.z .atomic (if f.w then 8 else 4) (tm.relOf false) (tm.atomAddr f.a)
      (State.pushAtomic c t tm (.op op f.w) true (tm.dest f.d) (regsOf f.w)
        (fun l => (tm.read f.w l f.b).val.setWidth 128) (fun l => (tm.read f.w l f.d).val.setWidth 128)
        fun l => (tm.read false l f.a).taint || (tm.read f.w l f.b).taint || (op == .cas && (tm.read f.w l f.d).taint))

/-- ARED. -/
def execAred (a b : Opd) (op : AredOp) (w z : Bool) (s : State) : Host.Outcome State Fault Refusal :=
  s.issue (.ared a b op w z) z .no [src1 a, srcP b w] fun c t tm s =>
    s.queued c t tm z .atomic (if w then 8 else 4) (tm.relOf false) (tm.atomAddr a)
      (State.pushAtomic c t tm (.op (aredAtom op) w) false .none 0
        (fun l => (tm.read w l b).val.setWidth 128) (fun _ => 0) fun _ => false)

/-- Whether one of n consecutive registers of a lane or uniform field is tainted. -/
def Team.wideTaint (t : Team) (n l : Nat) (o : Opd) : Bool :=
  (List.range n).any fun i => match o with
    | .v k => (t.laneReg l (t.ix.toNat + k.val + i)).taint
    | .s k => (t.uniReg l (t.six.toNat + k.val + i)).taint
    | .e k => (t.latch l k.val).taint
    | .zero => false

/-- CAS128. -/
def execCas128 (d a b : Opd) (z : Bool) (s : State) : Host.Outcome State Fault Refusal :=
  s.issue (.cas128 d a b z) z .no [src1 a, srcN b 4, dstN d 4, srcN d 4] fun c t tm s =>
    s.queued c t tm z .atomic 16 (tm.relOf false) (tm.atomAddr a)
      (State.pushAtomic c t tm .cas128 true (tm.dest d) 4
        (fun l => tm.readWide 4 l b) (fun l => tm.readWide 4 l d)
        fun l => (tm.read false l a).taint || tm.wideTaint 4 l b || tm.wideTaint 4 l d)

/-- The answered lanes of an atomic written to their destinations, the failed ones marked (R101, R310). -/
def Team.atomReply (t : Team) (a : AtomRes) : Team :=
  let t := a.got.foldl (fun t x => t.putFor a.p1 x.1 a.dest (a.tainted.contains x.1) (maskOf a.tainted) x.2.toNat a.regs) t
  let t := { t with bad := t.bad ++ a.bad.map fun (x : Nat × Cause × Nat) => BadDest.mk x.1 a.dest a.regs x.2.1 x.2.2 }
  let left := a.lanes.filter fun l => !a.got.any (·.1 == l) && !a.bad.any (·.1 == l)
  { t with atoms :=
    if left.isEmpty then t.atoms.filter (·.id != a.id)
    else t.atoms.map fun (x : AtomRes) => if x.id = a.id then { a with lanes := left, got := [], bad := [] } else x }

/-- ATOM_REPLY: the result reaches its destination. -/
def execAtomReply (core team id : Nat) (s : State) : Host.Outcome State Fault Refusal :=
  .next (match s.team? core team with
    | none => s
    | some tm =>
      match tm.atoms.find? (·.id == id) with
      | none => s
      | some a => (s.setTeam core team (tm.atomReply a)).settle)

/-! FENCE (R319, R320). -/

/-- The taint bits of a team cleared (R157), those of unwritten registers included. -/
def Team.untaint (t : Team) (now : Nat) : Team :=
  { t with
    cleanAt := now
    v := t.v.map fun p => (p.1, { p.2 with taint := false })
    u := t.u.map fun p => (p.1, { p.2 with taint := 0 })
    lat := t.lat.map fun p => (p.1, { p.2 with taint := false }) }

/-- FENCE's entry. -/
def Team.fenceEntry (t : Team) (sc : Scope) (now : Nat) : Team :=
  { (t.untaint now).enqueue { seq := t.seq, work := .fence sc, rel := some sc, acq := some sc, pc := t.wordPc, p1 := t.p1 } with seq := t.seq + 1 }

/-- FENCE: at DOMAIN or SYSTEM scope the team parks until its remote stores are done and raises their failure;
outstanding atomics are waited for and theirs is raised; then its entry takes its place. -/
def execFence (sc : Scope) (z : Bool) (s : State) : Host.Outcome State Fault Refusal :=
  s.issue (.fence sc z) z .no [] fun c t tm s =>
    if wideScope (some sc) && !s.teamRemoteQuiet c t tm then (s.announced c t).park c t ⟨.fence, 0, 0⟩
    else match s.releaseGate c t tm (some sc) true with
    | some s => s
    | none =>
      if !tm.atoms.isEmpty then s
      else match tm.badAtomics with
      | some k => ((s.setTeam c t (tm.consumeBad k.cause)).raise? c t k).getD s
      | none =>
        if !tm.sqRoom 1 then s
        else (s.tick.setTeam c t (tm.fenceEntry sc (s.fresh + 1))).finish c t (z || wideScope (some sc))

/-! COLL (R321 to R325). -/

/-- The operands of a COLL: address, length, access. -/
structure CollDesc where
  group : Nat
  ac : Nat
  src : Nat
  dst : Nat
  rec_ : Nat
  deriving DecidableEq, Repr

def Team.descWord (t : Team) (a : Opd) (i : Nat) : Nat :=
  match a with
  | .s n => (t.uniVal (t.six.toNat + n.val + i)).toNat
  | _ => 0

def Team.collDesc (t : Team) (a : Opd) : CollDesc :=
  let w (i : Nat) := t.descWord a i
  ⟨w 0 % 4096, bits (w 0) 12 4, w 1 + 2 ^ 32 * w 2, w 3 + 2 ^ 32 * w 4, w 5 + 2 ^ 32 * w 6⟩

/-- Bytes of an element (R321). -/
def RedGroup.elem (g : RedGroup) : Nat := if g.type = 1 then 8 else 4
def RedGroup.size (g : RedGroup) : Nat := g.count * g.elem

/-- The trap of an operand that reaches another device, with the leaf that translates it (R322). DESIGN CHOICE (entry 22): a domain
address of the own device beyond its memory, which R322 does not name, is refused in the same way. -/
def State.foreign (s : State) (acc : Access) (l : List LeafPiece) : Option Trap :=
  (l.find? fun x => s.isRemote x.pa).map fun x =>
    { cause := .permission, kind := .precise, addr := x.va, xfault := xfaultWord 2 acc x.level x.ps }

/-- The physical runs of the three operands, or the trap of the first check that fails (R322). -/
def State.collChecks (s : State) (c : Nat) (tm : Team) (a : Opd) :
    State × Except Trap (RedGroup × List (Nat × Nat) × List (Nat × Nat) × Nat) :=
  let d := tm.collDesc a
  if 2 ^ 16 ≤ tm.descWord a 0 then (s, .error (plainTrap .illegalInstruction))
  else match PMap.get? s.groups d.group with
  | none => (s, .error (plainTrap .permission))
  | some g =>
    if g.ctx ≠ s.ctxOf c || !g.ready then (s, .error (plainTrap .permission))
    else
      let n := g.size
      let mis := ([(d.src, g.elem), (d.dst, g.elem), (d.rec_, 16)] : List (Nat × Nat)).find? fun x => x.1 % x.2 != 0
      let non := ([(d.src, n), (d.dst, n), (d.rec_, 16)] : List (Nat × Nat)).find? fun x => nonCanonical (x.1 + x.2 - 1)
      match mis, non with
      | some x, _ => (s, .error { plainTrap .misaligned with addr := x.1 })
      | none, some x => (s, .error { plainTrap .nonCanonical with addr := max x.1 (2 ^ 56) })
      | none, none =>
        match s.leafPieces c tm.p1 .read (pageParts d.src n) with
        | (s, .error k) => (s, .error k)
        | (s, .ok src) => match s.leafPieces c tm.p1 .write (pageParts d.dst n) with
          | (s, .error k) => (s, .error k)
          | (s, .ok dst) => match s.leafPieces c tm.p1 .write [(d.rec_, 16)] with
            | (s, .error k) => (s, .error k)
            | (s, .ok rc) =>
              match s.foreign .read src, s.foreign .write dst, s.foreign .write rc with
              | some k, _, _ | none, some k, _ | none, none, some k => (s, .error k)
              | none, none, none => (s, .ok (g, runsOf src, runsOf dst, ((rc.map (·.pa)).headD 0)))

/-- The local address a physical address names. -/
def State.localPa (s : State) (pa : Nat) : Nat :=
  match s.route pa with
  | .local_ a => a
  | _ => pa

/-- The bytes of physical runs, read for a core. -/
def State.readRuns (s : State) (c : Nat) : List (Nat × Nat) → State × List Byte
  | [] => (s, [])
  | x :: r =>
    match s.readAt c (s.localPa x.1) x.2 with
    | (s, b) => match s.readRuns c r with
      | (s, bs) => (s, b ++ bs)

/-- Bytes written over physical runs. -/
def State.writeRuns (s : State) (c : Nat) : List (Nat × Nat) → List Byte → State
  | [], _ => s
  | x :: r, bs => (s.writeAt c (s.localPa x.1) (bs.take x.2)).writeRuns c r (bs.drop x.2)

/-- Every earlier access of the team has been performed, atomics of other devices and window LDPs among them, and every store of
the core that precedes it by an acquire or a barrier is at its home (R323, R415). -/
def State.forkReady (s : State) (c t : Nat) (tm : Team) : Bool :=
  tm.loadsDone tm.seq && tm.sq.isEmpty && s.noRemoteAtom c t &&
    !(s.core c).order.any fun w => (w.team == t || decide (w.stamp < tm.sync)) && (s.localSector w).isSome

/-- The contribution sent (R323). -/
def State.collSend (s : State) (c t : Nat) (tm : Team) (a : Opd) (op : AredOp) (g : RedGroup)
    (src dst : List (Nat × Nat)) (rc : Nat) : State :=
  let d := tm.collDesc a
  match s.readRuns c src with
  | (s, bs) =>
    let s := { s with groups := PMap.modify s.groups d.group fun g => { g with round := (g.round + 1) % 2 ^ 32 } }
    let s := s.tick
    (s.send (.coll d.group g.round op bs)).modTeam c t fun u =>
      { u with
        seq := u.seq + 1
        colls := u.colls ++ [⟨s.fresh, d.group, g.round, d.ac, dst, s.localPa rc, g.size, tm.acqOf.isSome, tm.scopeOf.1, s.cycle⟩] }

/-- COLL: it waits at issue until what precedes it has been performed, and, as a release, until its scope's conditions hold
(R307, R323). -/
def State.coll (s : State) (i : Instr) (a : Opd) (op : AredOp) (z : Bool) : Host.Outcome State Fault Refusal :=
  s.issue i z .no [srcN a 7] fun c t tm s =>
    if tm.fenced then s
    else match s.collChecks c tm a with
    | (s, .error k) => s.raise c t k
    | (s, .ok (g, src, dst, rc)) =>
      match s.releaseGate c t tm (tm.relOf false) true with
      | some s => s
      | none =>
        if Config.colls ≤ tm.colls.length || !s.forkReady c t tm || !((tm.relOf false).map (s.releaseOk c)).getD true then s
        else (s.collSend c t tm a op g src dst rc).finish c t z

def execCollAdd (a : Opd) (z : Bool) (s : State) := s.coll (.collAdd a z) a .add z
def execCollMin (a : Opd) (z : Bool) (s : State) := s.coll (.collMin a z) a .min z
def execCollMax (a : Opd) (z : Bool) (s : State) := s.coll (.collMax a z) a .max z

/-- The record of Table 5.9. -/
def collRecord (status round missing : Nat) : List Byte := natLe 4 status ++ natLe 4 round ++ natLe 8 missing

/-- A COLL completes: result, record, count (R323). -/
def State.collDone (s : State) (c t id : Nat) (result : Option (List Byte)) (missing : Nat) : State :=
  match s.team? c t with
  | none => s
  | some tm =>
    match tm.colls.find? (·.id == id) with
    | none => s
    | some k =>
      let s := match result with
        | some bs => s.writeRuns c k.dst bs
        | none => s
      let s := s.writeAt c k.rec_ (collRecord (bnum result.isNone) k.round (if result.isSome then 0 else missing))
      let s := if result.isSome && k.acq && acquireDrops (some k.scope) then s.l1Drop c else s
      (s.modTeam c t fun u => { u.bump k.ac 1 with colls := u.colls.filter (·.id != id) }).settle

/-- GROUP_TIMEOUT plus REMOTE_TIMEOUT have passed since a COLL's contribution left. -/
def State.collLate (s : State) (c t id : Nat) : Bool :=
  match s.team? c t with
  | none => false
  | some tm => tm.colls.any fun k =>
    k.id == id && decide (k.at_ + (s.groupTimeout + s.remoteTimeout) * Config.cyclesPerTenth ≤ s.cycle)

/-- COLL_RECORD: the switches' record of a round; one that comes after the two timeouts is discarded (R323). -/
def execCollRecord (core team id : Nat) (a : CollAns) (s : State) : Host.Outcome State Fault Refusal :=
  .next (if s.collLate core team id then s
    else s.collDone core team id (if a.complete then some a.result else none) a.missing.toNat)

/-- COLL_RECORD_TIMEOUT: the device writes a record of its own. -/
def execCollRecordTimeout (core team id : Nat) (s : State) : Host.Outcome State Fault Refusal :=
  .next (if s.collLate core team id then s.collDone core team id none (2 ^ 64 - 1) else s)

/-! Leaving the queue, and the home slice (R305, R306, R317, R97, R98). -/

/-- STORE_QUEUE_ENTRY_LEAVES; the numbers from 16 on name the queues that ended teams have left on the core. -/
def execStoreQueueEntryLeaves (core team : Nat) (s : State) : Host.Outcome State Fault Refusal :=
  .next (if 16 ≤ team then s.leaveLeft core (team - 16)
    else match s.leave core team with
    | some s => s.settle
    | none => s)

/-- A store of the core's order reaches its home: applied, sent to its owner in the name of the context that stored (R96), or
refused. -/
def State.homeRequest (s : State) (c k : Nat) (w : HomeWrite) : State :=
  let take (s : State) : State := s.modCore c fun x => { x with order := listDrop x.order k }
  let fail (s : State) (cause : Cause) : State :=
    if teamAlive w.team then
      s.modTeam c w.team fun tm => tm.storeFails w.seq cause w.va (maskOf [w.lane])
    else s
  match s.route (64 * w.sector) with
  | .local_ _ => take (s.applyWrite c w)
  | .refused => fail (take s) .permission
  | .remote dev lpa =>
    if !s.sectorFree c dev lpa || s.loadAhead c w.team w.stamp w.va (64 * w.sector) then s
    else
      let off := (w.bytes.headD (0, 0)).1
      match s.request dev w.ctx (lpa + off) w.va (.store c w.team w.lane w.va w.stamp w.seq) (.write (w.bytes.map (·.2))) with
      | (s, true) => take s
      | (s, false) => fail (take s) .remoteTimeout

/-- HOME_SLICE_REQUEST: the k-th store of a core's order, where no earlier one is of its sector; beyond the
order, the core's trace packets. -/
def execHomeSliceRequest (core k : Nat) (s : State) : Host.Outcome State Fault Refusal :=
  .next (match (s.core core).order[k]? with
    | none => s.traceFlush core false
    | some w =>
      if ((s.core core).order.take k).any fun x => x.sector == w.sector ||
          ((s.localSector w).isSome && s.localSector x == s.localSector w) then s
      else (s.homeRequest core k w).settle)

/-- ATOMIC_LINE_RECALL: a held line goes back to its home (R317). -/
def execAtomicLineRecall (core line : Nat) (s : State) : Host.Outcome State Fault Refusal :=
  .next (s.modCore core fun x => x.recall line s.cycle)

end Sys2Proof.Machine
end

