-- ==== Sys2Proof/Machine/Barriers.lean ====
section
/-! DEFINITION. Named barriers, YIELD and HEART (R373 to R383, R431). -/

namespace Sys2Proof.Machine

/-- Barrier Mismatch with the barrier's number. -/
def mismatch (nb : Nat) (m : Option LaneMask) : Trap := { plainTrap .barrierMismatch with arg := nb, mask := m }

/-- The lanes of paths that a gather left at other barrier words, above any handler boundary (R338, R392). -/
def Team.stoppedAtBarrier (t : Team) : LaneMask :=
  (t.stack.takeWhile (· != .handler)).foldl (fun m e => match e with
    | .path _ p .atBarrier => m ||| p
    | _ => m) 0

/-- The checks of a barrier word (R376). -/
def State.barTrap (s : State) (c : Nat) (tm : Team) (nb : Nat) : Option Trap :=
  if !((s.block? c).map fun b => PMap.has b.bars nb).getD false then some (mismatch nb none)
  else if tm.inRun then some (mismatch nb none)
  else if tm.stoppedAtBarrier != 0 then some (mismatch nb (some (tm.act ||| tm.stoppedAtBarrier)))
  else none

def State.isGrid (s : State) (c nb : Nat) : Bool :=
  (((s.block? c).bind fun b => PMap.get? b.bars nb).map fun b => b.scope == .grid).getD false

/-- The wait on a pending arrival's phase: the team parks, or raises Barrier Mismatch where the phase cannot
complete (R378, R380, R431). -/
def State.barPark (s : State) (c t nb : Nat) : State :=
  if s.canComplete c nb then (s.announced c t).park c t ⟨.barrier, nb, 0⟩ else s.raise c t (mismatch nb none)

/-- The arrival half (R377): the state the word is left in where it cannot arrive yet, else the arrival queued. -/
def State.barArrive (s : State) (c t : Nat) (tm : Team) (nb : Nat) : State ⊕ State :=
  if s.pendOpen c tm nb then .inl (s.barPark c t nb)
  else
    let sc : Scope := if s.isGrid c nb then .domain else .core
    match s.releaseGate c t tm (some sc) true with
    | some s => .inl s
    | none =>
      if !tm.sqRoom 1 then .inl s
      else
        let p := ((s.barrier? c nb).map (·.phase)).getD 0
        .inr (s.setTeam c t { tm.enqueue ⟨tm.seq, .barrier nb, some sc, none, tm.wordPc, tm.p1⟩ with
          seq := tm.seq + 1, pend := PMap.set tm.pend nb p })

/-- BAR.ARR. -/
def execBarArr (nb : BitVec 6) (z : Bool) (s : State) : Host.Outcome State Fault Refusal :=
  s.issue (.barArr nb z) z .barrier [] fun c t tm s =>
    match s.barTrap c tm nb.toNat with
    | some k => s.raise c t k
    | none => match s.barArrive c t tm nb.toNat with
      | .inl s => s
      | .inr s => s.finish c t z

/-- The waiting half (R378): at a GRID barrier its completion discards the L1. -/
def State.barWait (s : State) (c t : Nat) (nb : Nat) : State :=
  match s.team? c t with
  | none => s
  | some tm =>
    if !PMap.has tm.pend nb then s.finish c t true
    else if s.pendOpen c tm nb then s.barPark c t nb
    else
      let s := s.setTeam c t { tm with pend := PMap.del tm.pend nb, sync := s.fresh + 1 }
      (if s.isGrid c nb then s.l1Drop c else s).finish c t true

/-- BAR.WAIT. -/
def execBarWait (nb : BitVec 6) (s : State) : Host.Outcome State Fault Refusal :=
  s.issue (.barWait nb) true .barrier [] fun c t tm s =>
    match s.barTrap c tm nb.toNat with
    | some k => s.raise c t k
    | none => s.barWait c t nb.toNat

/-- BAR.SYNC: the arrival, then the wait, as one word. -/
def execBarSync (nb : BitVec 6) (z : Bool) (s : State) : Host.Outcome State Fault Refusal :=
  s.issue (.barSync nb z) z .barrier [] fun c t tm s =>
    match s.barTrap c tm nb.toNat with
    | some k => s.raise c t k
    | none =>
      if tm.second then s.barWait c t nb.toNat
      else match s.barArrive c t tm nb.toNat with
        | .inl s => s
        | .inr s => (s.modTeam c t fun u => { u with second := true }).barWait c t nb.toNat

/-- YIELD ends the clause, and the team's next arbitration is behind those of its equals (R382). -/
def execYield (z : Bool) (s : State) : Host.Outcome State Fault Refusal :=
  s.issue (.yield z) z .no [] fun c t _ s => (s.finish c t true).modTeam c t fun tm => { tm with yielded := true }

/-- The token recorded where it differs (R383, R411). -/
def Team.heart (t : Team) (token : Word) (cycle : Nat) : Team :=
  if token = t.htoken then t
  else { t with
    htoken := token, wdogFrom := cycle, wdogElapsed := 0
    wdog2From := if t.pers then none else t.wdog2From }

/-- HEART. -/
def execHeart (a : Opd) (z : Bool) (s : State) : Host.Outcome State Fault Refusal :=
  s.issue (.heart a z) z .no [srcOnce a] fun c t tm s => (s.setTeam c t (tm.heart (tm.read32 tm.first a) s.cycle)).finish c t z

/-- GRID_BARRIER_MESSAGE: another participant's arrival is counted, whether this one has started or not yet (R104, R373). -/
def execGridBarrierMessage (ctx : Nat) (gen : Word) (nb : Nat) (s : State) : Host.Outcome State Fault Refusal :=
  .next (match (if s.linked then s.launches.find? fun p => p.2.ctx == ctx && p.2.gen == gen && !p.2.dead else none) with
    | none => s
    | some p => ({ s with grid := PMap.modify s.grid (gridKey p.1 nb) Barrier.arrive } : State).settle)

end Sys2Proof.Machine
end

