-- ==== Sys2Proof/Machine/Control.lean ====
section
/-! DEFINITION. Branches, calls, RCV, BRK, REFILL, RET, indirect transfers, LPAD and EXIT (R332 to R361). -/

namespace Sys2Proof.Machine

/-- Before a word that carries the pop flag executes, its path may arrive (R335); else it issues. -/
def State.popIssue (s : State) (p : Bool) (i : Instr) (z : Bool) (w : Wide) (us : List Use)
    (f : Nat → Nat → Team → State → State) : Host.Outcome State Fault Refusal :=
  match s.live? with
  | none => .fault .noIssuer
  | some tm =>
    if p && topJoin tm.stack == some tm.pc then .next (s.arriveJoin s.cur.core s.cur.team)
    else s.issue i z w us f

/-- A direct target (R339). -/
def Team.target (t : Team) (off : BitVec 21) : DWord := t.pc + (off.signExtend 64 <<< 2)

/-- The path goes on at an address, in a new clause. -/
def State.jump (s : State) (c t : Nat) (pc : DWord) (m : LaneMask) : State := (s.announced c t).startPath c t pc m

def Team.push (t : Team) (e : StackEntry) : Team := { t with stack := e :: t.stack }

def overflowTrap : Trap := plainTrap .divergenceOverflow

/-! Direct control (R340). -/

/-- BRA. -/
def execBra (off : BitVec 21) (p : Bool) (s : State) : Host.Outcome State Fault Refusal :=
  s.popIssue p (.bra off p) true .no [] fun c t tm s => s.jump c t (tm.target off) tm.act

/-- CALL. -/
def execCall (off : BitVec 21) (p : Bool) (s : State) : Host.Outcome State Fault Refusal :=
  s.popIssue p (.call off p) true .no [] fun c t tm s =>
    if !tm.room 1 then s.raise c t overflowTrap
    else (s.setTeam c t (tm.push (.call (tm.pc + 4) 0))).jump c t (tm.target off) tm.act

/-- RCV. -/
def execRcv (off : BitVec 21) (p z : Bool) (s : State) : Host.Outcome State Fault Refusal :=
  s.popIssue p (.rcv off p z) z .no [] fun c t tm s =>
    if !tm.room 1 then s.raise c t overflowTrap
    else (s.setTeam c t (tm.push (.join (tm.target off) 0))).finish c t z

/-- The lanes of the path whose flag is 1. -/
def Team.flagMask (t : Team) (k : BitVec 3) : LaneMask := maskOf (t.active.filter fun l => t.flag l k)

/-- BRK. -/
def execBrk (f : BrK) (s : State) : Host.Outcome State Fault Refusal :=
  s.popIssue f.p (.brk f) true .no [] fun c t tm s =>
    let y := tm.flagMask f.k
    let n := tm.act &&& ~~~y
    if y = 0 then ((s.announced c t).emitBranch c t tm y 0).startPath c t (tm.pc + 4) tm.act
    else if n = 0 then ((s.announced c t).emitBranch c t tm y 0).startPath c t (tm.target f.off) tm.act
    else if !tm.room 1 then s.raise c t overflowTrap
    else ((s.announced c t).emitBranch c t tm y 0).split c t [(tm.target f.off, y), (tm.pc + 4, n)]

/-! REFILL (R350 to R353). -/

/-- A run grown by the lanes that hold the next tickets in ascending lane order (R352). -/
def extendRun (iter : Nat → Nat) (held : List Nat) : Nat → List Nat → Nat → List Nat × Nat
  | 0, run, t => (run, t)
  | n + 1, run, t =>
    match held.find? fun h => iter h == t && decide (run.getLastD 0 < h) with
    | some h => extendRun iter held n (run ++ [h]) (t + 1)
    | none => (run, t)

/-- The smallest iteration of some lanes, or the next of the range. -/
def minIter (iter : Nat → Nat) (next : Nat) (ls : List Nat) : Nat :=
  match ls with
  | [] => next
  | l :: r => r.foldl (fun m x => min m (iter x)) (iter l)

/-- The ordered runs and the lanes still held (R352). -/
def orderedRuns (iter : Nat → Nat) (cont : List Nat) (next : Nat) : Nat → List Nat → Nat → List (List Nat) × List Nat
  | 0, held, _ => ([], held)
  | n + 1, held, t =>
    match held.find? fun h => iter h == t with
    | none => ([], held)
    | some h =>
      let run := (extendRun iter held 1024 [h] (t + 1)).1
      let left := held.filter fun x => !run.contains x
      let r := orderedRuns iter cont next n left (minIter iter next (cont ++ left))
      (run :: r.1, r.2)

/-- REFILL stands in the body section of a refill kernel (R350). -/
def State.refillPlace (s : State) (c : Nat) (pc : DWord) : Bool :=
  match s.block? c with
  | some b => b.rec_.rf && decide (b.rec_.body.toNat ≤ pc.toNat) && decide (pc.toNat + 4 ≤ b.rec_.retire.toNat)
  | none => false

/-- The frame as REFILL leaves it before the first run. A REFILL of a body path that was still pending while another's
phases ran (R248) joins them: lanes that retired but have not drawn draw with its own, and lanes that drew go on with its
own (DESIGN CHOICE, entry 44). -/
def Team.refillFrame (t : Team) (ord : Bool) (f : RefillFrame) (label : DWord) (done cont : LaneMask) : RefillFrame :=
  let iter (l : Nat) : Nat := ((PMap.get? t.iter l).getD 0).toNat
  let r : List (List Nat) × List Nat :=
    if ord then orderedRuns iter (t.lanesOf cont) t.rangeNext.toNat 1024 (t.lanesOf (f.held ||| done)) t.ticket.toNat
    else (if done = 0 then [] else [t.lanesOf done], t.lanesOf f.held)
  let drawn := f.phase == .prologue
  let before := if drawn then [] else f.retired
  { f with
    held := maskOf r.2, phase := .body, label := label, cont := f.cont ||| cont ||| (if drawn then f.drew else 0), runs := r.1 ++ f.runs
    retired := t.lanesOf (maskOf (before ++ (r.1 ++ f.runs).flatten)), toDraw := [], drew := 0, inside := 0 }

/-- A path put under all others, above a frame or a handler boundary. -/
def underPaths (e : StackEntry) : List StackEntry → List StackEntry
  | [] => [e]
  | .refill f :: r => e :: .refill f :: r
  | .handler :: r => e :: .handler :: r
  | x :: r => x :: underPaths e r

/-- A REFILL of a body path while a run of another one is still to end waits for it: its path stays pending, under those of
the run (DESIGN CHOICE, entry 44). -/
def State.refillLater (s : State) (c t : Nat) (tm : Team) : State :=
  if tm.gathering then s.stopPath c t .elsewhere
  else
    let tm := tm.gatherDone
    (s.setTeam c t { tm with stack := underPaths (.path tm.wordPc tm.act .pending) tm.stack, act := 0 }).resumeTeam c t tm.wordPc

/-- The gathers that a REFILL issues under go on with its phases. -/
def Team.spanGathers (t : Team) : Team := { t with gathers := t.gathers.map fun g => { g with spans := true } }

/-- The effect of REFILL: what is done retires, then draws, runs the prologue and goes on at the label. -/
def State.refillEffect (s : State) (c t : Nat) (tm : Team) (k : BitVec 3) (label : DWord) : State :=
  match frameOf tm.stack, s.block? c with
  | some f, some b =>
    let d := tm.flagMask k
    let g := tm.refillFrame b.rec_.ord f label d (tm.act &&& ~~~d)
    let s := (s.announced c t).emitBranch c t tm d 2
    let s := s.setTeam c t ({ tm with
      stack := setFrame g tm.stack, act := 0, advs := [], look := tm.look + 1 } : Team).gatherDone.spanGathers
    let s := (tm.lanesOf g.held).foldl (fun s l => s.emitRefill c t l 1 ((PMap.get? tm.iter l).getD 0)) s
    (s.refillGo c t).settle
  | _, _ => s

/-- REFILL. -/
def execRefill (f : BrK) (s : State) : Host.Outcome State Fault Refusal :=
  match s.live? with
  | none => .fault .noIssuer
  | some tm =>
    let c := s.cur.core
    let t := s.cur.team
    if f.p && topJoin tm.stack == some tm.pc then .next (s.arriveJoin c t)
    else if !s.refillPlace c tm.pc then .next (s.raise c t (plainTrap .illegalInstruction))
    else s.issue (.refill f) true .yes [] fun c t tm s =>
      if tm.phaseLanes &&& ~~~tm.act = 0 then s.refillEffect c t tm f.k (tm.target f.off) else s.refillLater c t tm

/-! RET, BRX, CALLX, LPAD, EXIT (R343 to R346). -/

/-- RET. -/
def execRet (s : State) : Host.Outcome State Fault Refusal :=
  s.issue .ret true .no [] fun c t tm s =>
    if !hasCall tm.stack then s.raise c t overflowTrap
    else ((s.announced c t).modTeam c t fun u => { u with stack := callArrive tm.act u.stack }).endPath c t

/-- A lane's indirect target (R344). -/
def Team.indTarget (t : Team) (a : Opd) (l : Nat) : DWord :=
  (t.pc >>> 32 <<< 32) + (t.read32 l a).setWidth 64

/-- The groups of equal targets, in ascending order of their lowest lanes. -/
def Team.groups (t : Team) (a : Opd) : List (DWord × LaneMask) :=
  ((t.active.map (t.indTarget a)).eraseDups).map fun x => (x, maskOf (t.active.filter fun l => t.indTarget a l == x))

/-- Why a target is no landing pad: its XFAULT value; none where it is one. -/
def State.padFault (s : State) (c : Nat) (p1 : Bool) (tag : BitVec 8) (at_ : DWord) : Option Word :=
  match (s.fetch c at_ p1).2 with
  | .error k => some k.xfault
  | .ok w => match decode w with
    | .ok (.lpad g _) => if g = tag then none else some 0
    | _ => some 0

/-- The Landing Pad trap where a lane's target is no landing pad, with the address and the XFAULT value of the lowest
such lane, for every lane with that value (R344, R432). -/
def State.landTrap (s : State) (c : Nat) (tm : Team) (a : Opd) (tag : BitVec 8) : Option Trap :=
  let bad := tm.active.filterMap fun l => (s.padFault c tm.p1 tag (tm.indTarget a l)).map fun x => (l, x)
  bad.head?.map fun b =>
    { cause := .landingPad, kind := .precise, addr := (tm.indTarget a b.1).toNat, mask := some (maskOf ((bad.filter (·.2 == b.2)).map (·.1)))
      xfault := b.2 }

/-- BRX and CALLX. DEDUCED (entry 68): Landing Pad comes before Divergence Overflow, as R60 and R344 have it. -/
def State.indirect (s : State) (i : Instr) (f : IndF) (call : Bool) : Host.Outcome State Fault Refusal :=
  s.issue i true .no [src1 f.a] fun c t tm s =>
    let gs := tm.groups f.a
    match s.landTrap c tm f.a f.tag with
    | some k => s.raise c t k
    | none =>
      if !tm.room (gs.length - 1 + bnum call) then s.raise c t overflowTrap else
      let s := s.announced c t
      let s := gs.foldl (fun s g =>
        (s.emitPc c t 10 g.1 (t + 16 * (pcField g.1 + 2 ^ 24 * lowest g.2))).emitBranch c t tm g.2 1) s
      let s := if call then s.modTeam c t fun u => u.push (.call (tm.pc + 4) 0) else s
      s.split c t gs

def execBrx (f : IndF) (s : State) := s.indirect (.brx f) f false
def execCallx (f : IndF) (s : State) := s.indirect (.callx f) f true

/-- LPAD has no effect. -/
def execLpad (tag : BitVec 8) (z : Bool) (s : State) := s.compute (.lpad tag z) z .no [] fun t => t

/-- The team ends with this EXIT (R346). -/
def Team.lastExit (t : Team) : Bool :=
  (frameOf t.stack).isSome || (match resumeStack t.stack with | (.empty, _) => true | _ => false)

/-- EXIT: a path ends; before the team ends it waits for what is outstanding and raises what failed. -/
def execExit (s : State) : Host.Outcome State Fault Refusal :=
  s.issue .exit true .no [] fun c t tm s =>
    if tm.gathering then s.stopPath c t .elsewhere
    else if !tm.lastExit then
      ((s.announced c t).modTeam c t fun u => ({ u with act := 0 } : Team).rehelp u.act).endPath c t
    else if !s.exitReady c t tm then (s.announced c t).park c t ⟨.exit, 0, 0⟩
    else match tm.endTrap with
      | some (k, tm') => ((s.setTeam c t tm').raise? c t k).getD s
      | none => (s.announced c t).teamExit c t

end Sys2Proof.Machine
end

