-- ==== Sys2Proof/Machine/Pad.lean ====
section
/-! DEFINITION. LDP and STP, through own scratchpad and the group window, and PRES (R133 to R135, R140,
R159 to R161, R172, R175). -/

namespace Sys2Proof.Machine

/-- The scratchpad address of a lane (R160). -/
def padAddr (base : Word) (off : Nat) : Nat := (base.toNat + off) % 2 ^ 32

/-- The trap of Table 7.3 for an address, if it has one: cause and XFAULT (R133). -/
def State.padTrap (s : State) (c : Nat) (acc : Access) (a : Nat) : Option (Cause × Word) :=
  match s.block? c with
  | none => some (.pageFault, 0)
  | some b =>
    match s.padAt c b a with
    | .pool .. => none
    | .trap .groupRevoked _ => some (.groupRevoked, 0)
    | .trap cause kind => some (cause, xfaultWord kind acc 0 0)

/-- The checks of R160 and R175 over the active lanes. -/
def State.padChecks (s : State) (c : Nat) (acc : Access) (size : Nat) (lanes : List (Nat × Nat)) : Option Trap :=
  let mis := lanes.filter fun x => x.2 % size != 0
  if !mis.isEmpty then some (laneTrap .misaligned mis)
  else firstTrap (lanes.filterMap fun x => (s.padTrap c acc x.2).map fun e => (x.1, x.2, e.1, e.2))

/-- The trap of lanes that read a pool word that cannot be corrected (R426). -/
def State.padUpset (s : State) (c size : Nat) (lanes : List (Nat × Nat)) : Option Trap :=
  match s.block? c with
  | none => none
  | some b => firstTrap (lanes.filterMap fun x => match s.padAt c b x.2 with
    | .pool m o _ => if meets (((s.block? m).map (·.upSp)).getD []) o size then some (x.1, x.2, Cause.poisonedData, 0) else none
    | .trap .. => none)

/-- The line an address lies in: core, line, slot code of Table 19.4. -/
def State.padLine (s : State) (c a : Nat) : Option (Nat × Nat × Nat) :=
  match s.block? c with
  | none => none
  | some b =>
    match s.padAt c b a with
    | .pool m o k => some (m, o / 128, k)
    | .trap .. => none

def State.lineAbsent (s : State) (x : Nat × Nat × Nat) : Bool :=
  (((s.block? x.1).map (·.absent)).getD []).contains x.2.1

/-- The entry of a copy of the team that keeps a line absent. -/
def State.keeps (s : State) (c : Nat) (x : Nat × Nat × Nat) (e : FaultEntry) : Bool := s.keepsLine c x.1 x.2.1 e

/-- The trap of the team's own failed copy that keeps one of some lines absent (R172). -/
def State.ownCopyTrap (s : State) (c : Nat) (tm : Team) (lines : List (Nat × Nat × Nat)) : Option Trap :=
  tm.recordTrap fun e => lines.any fun x => s.keeps c x e

/-- A value that is not defined, for a helper lane's destination (R147). -/
def State.helperGets (s : State) (c t l : Nat) (d : Dest) (taint : Bool) (all : LaneMask) (regs : Nat) : State :=
  let s := s.tick
  let x := (Config.free64 s.fresh).toNat + 2 ^ 64 * (Config.free64 (s.fresh + 2 ^ 60)).toNat
  s.modTeam c t fun tm => tm.putDest l d taint all x regs

/-- One lane of an LDP pass: own scratchpad at once; a window lane is left for its arrival; a helper lane whose
address reaches nothing, a line absent or a word that cannot be corrected gets a value that is not defined. LDP is no load of
Table 3.9: its result is tainted where its base was (R157, entry 70). -/
def State.ldpLane (s : State) (c t : Nat) (d : Dest) (size l a : Nat) (writes taint : Bool) (all : LaneMask) : State :=
  match s.block? c with
  | none => s
  | some b =>
    let regs := if size ≤ 4 then 1 else size / 4
    if !writes then s
    else match s.padAt c b a with
    | .pool m o k =>
      if s.lineAbsent (m, o / 128, k) || a % size != 0 || (k == 0 && meets b.upSp o size) then s.helperGets c t l d taint all regs
      else if k = 0 then s.modTeam c t fun tm => tm.putDest l d taint all (leNat (b.spadBytes o size)) regs
      else s
    | .trap .. => s.helperGets c t l d taint all regs

/-- The window lanes of an LDP pass. -/
def State.winLanes (s : State) (c : Nat) (ls : List (Nat × Nat)) : List (Nat × Nat × Nat) :=
  match s.block? c with
  | none => []
  | some b => ls.filterMap fun x => match s.padAt c b x.2 with
    | .pool m o (_ + 1) => some (x.1, m, o)
    | _ => none

/-- An LDP pass. -/
def State.ldpPass (s : State) (c t : Nat) (tm : Team) (f : PadF) (addr : Nat → Nat) (taint : Nat → Bool) (ls : List Nat) : State :=
  let size := Size.bytes f.sz
  let d := tm.dest f.d
  let wr (l : Nat) : Bool := match d with | .none => false | .lane _ => true | .uni _ => l == tm.first
  let tnt := tm.parts.filter taint
  let s := ls.foldl (fun s l => s.ldpLane c t d size l (addr l) (wr l) (taint l) (maskOf tnt)) s
  let win := (s.winLanes c ((ls.filter fun l => wr l && addr l % size == 0).map fun l => (l, addr l))).filter fun x =>
    !s.lineAbsent (x.2.1, x.2.2 / 128, 1)
  if win.isEmpty then s
  else
    let s := s.tick
    s.modTeam c t fun tm => { tm with
      wld := tm.wld ++ [⟨s.fresh, tm.seq, d, size, win, tnt, ls.filter fun l => !tm.act.getLsbD l, tm.p1, tm.wordPc, false, []⟩] }

/-- The bytes an STP stores from a lane. A latch has no bits beyond its 64: with size q the upper half is free (R159, R181,
entry 21). -/
def Team.stpData (t : Team) (seed : Nat) (f : PadF) (l : Nat) : List Byte :=
  let x := (t.readWide (Size.regs f.sz) l f.d).toNat
  natLe (Size.bytes f.sz) (if f.sz = .q && !f.d.notLatch then x + 2 ^ 64 * (Config.free64 (seed * 2 ^ 22 + l)).toNat else x)

/-- An STP pass: own scratchpad at once, lanes ascending; window lanes as one entry of the store queue. -/
def State.stpPass (s : State) (c t : Nat) (tm : Team) (f : PadF) (addr : Nat → Nat) (ls : List Nat) : State :=
  let s := s.tick
  let data (l : Nat) : List Byte := tm.stpData s.fresh f l
  match s.block? c with
  | none => s
  | some b =>
    let s := ls.foldl (fun s l => match s.padAt c b (addr l) with
      | .pool _ o 0 => s.modBlock c fun b => b.spadPut o (data l)
      | _ => s) s
    let win := ls.filterMap fun l => match s.padAt c b (addr l) with
      | .pool m o (_ + 1) => some (⟨l, addr l, m * 2 ^ 32 + o, data l⟩ : LaneStore)
      | _ => none
    if win.isEmpty then s
    else s.modTeam c t fun tm => { tm with sq := tm.sq ++ [⟨tm.seq, .window win, none, none, tm.wordPc, tm.p1⟩] }

/-- One pass of an LDP or STP, of warp w, and the word's end with its last pass (R135, R160, R161). Each pass is a step of its
own, in a cycle of its own (R414); a word some of whose passes have been performed keeps their warps and every lane's address.
A line that a failed copy of the team keeps absent raises its trap where an active lane touches it (R172), and holds no helper
lane back (R147). An LDP pass reads its words once every line it touches is present, and traps at one that cannot be corrected
(R135, R426); DESIGN CHOICE (entry 35): the passes before it stand. -/
def State.padPass (s : State) (c t : Nat) (tm : Team) (f : PadF) (store : Bool) (addr : Nat → Nat) (taint : Nat → Bool)
    (done : List Nat) (w : Nat)    (more : Bool) : State :=
  let ls := (if store then tm.active else tm.parts).filter fun l => warpOf l == w
  let hold (d : List Nat) (s : State) : State := s.modTeam c t fun u =>
    { u with pad := some ⟨d, tm.parts.foldl (fun m l => PMap.set m l (addr l)) [], tm.parts.filter taint⟩ }
  let absent (ls : List Nat) : List (Nat × Nat × Nat) := (ls.filterMap fun l => s.padLine c (addr l)).filter s.lineAbsent
  match s.ownCopyTrap c tm (absent (ls.filter tm.act.getLsbD)) with
  | some k => ((hold done s).raise? c t k).getD (hold done s)
  | none =>
    match (absent ls).find? fun x => !(tm.faults ++ tm.overflow).any (s.keeps c x) with
    | some x => (hold done s).park c t ⟨.presence, x.2.2, x.2.1⟩
    | none =>
      match (if store then none else s.padUpset c (Size.bytes f.sz) ((ls.filter tm.act.getLsbD).map fun l => (l, addr l))) with
      | some k => ((hold done s).raise? c t k).getD (hold done s)
      | none =>
      if store && decide (Config.storeQueue ≤ tm.sq.length) && !(s.winLanes c (ls.map fun l => (l, addr l))).isEmpty then hold done s
      else
        let s := if store then s.stpPass c t tm f addr ls else s.ldpPass c t tm f addr taint ls
        if more then hold (w :: done) (s.announced c t)
        else (s.modTeam c t fun u => { u with seq := u.seq + 1, pad := none }).finish c t f.z

/-- The effect of LDP and STP. DESIGN CHOICE (entry 35): the checks of R160 and R175 over every lane are made again before each
pass, so that a slot revoked between two passes traps, and the passes before it stand. -/
def State.padEffect (s : State) (c t : Nat) (tm : Team) (f : PadF) (store : Bool) : State :=
  let off := f.off.toNat * Size.bytes f.sz
  let addr (l : Nat) : Nat := match tm.pad.bind fun p => PMap.get? p.addr l with
    | some a => a
    | none => padAddr (tm.read32 l f.a) off
  let taint (l : Nat) : Bool := match tm.pad with
    | some p => p.tainted.contains l
    | none => (tm.read false l f.a).taint
  if tm.fenced then s
  else match s.padChecks c (if store then .write else .read) (Size.bytes f.sz) (tm.active.map fun l => (l, addr l)) with
  | some k => s.raise c t k
  | none =>
    let done := ((tm.pad.map (·.done)).getD [])
    match tm.warps.filter fun w => !done.contains w with
    | [] => (s.modTeam c t fun u => { u with seq := u.seq + 1, pad := none }).finish c t f.z
    | w :: r => s.padPass c t tm f store addr taint done w !r.isEmpty

def execLdp (f : PadF) (s : State) :=
  s.issue (.ldp f) f.z .no [src1 f.a, dstN f.d (Size.regs f.sz)] fun c t tm s => s.padEffect c t tm f false

def execStp (f : PadF) (s : State) :=
  s.issue (.stp f) f.z .no [src1 f.a, srcN f.d (Size.regs f.sz)] fun c t tm s => s.padEffect c t tm f true

/-- Whether a window LDP reads one of some pool bytes: a core's pool at an offset. -/
def WinLoad.reads (x : WinLoad) (core off n : Nat) : Bool :=
  x.lanes.any fun l => l.2.1 == core && overlap l.2.2 x.size off n

/-- Nothing older of the team holds a window LDP back: window LDPs of the bytes it reads, acquires, fences (R140, R150,
R320). -/
def Team.mayWindow (t : Team) (x : WinLoad) : Bool :=
  !(t.sq.any fun e => decide (e.seq < x.seq) && (e.acq.isSome || (match e.work with
    | .fence _ => true
    | _ => false))) &&
  !(t.wld.any fun y => decide (y.id < x.id) && y.lanes.any fun l => x.reads l.2.1 l.2.2 y.size) &&
  !(t.out.any fun p => decide (p.seq < x.seq) && p.acq.isSome && !p.lanes.isEmpty) &&
  !t.atoms.any fun a => decide (a.seq < x.seq) && a.acq.isSome

/-- What the team's own queue holds for a byte of a core's pool: the newest window STP before the load (R328). -/
def Team.queuedPad (t : Team) (seq core off : Nat) : Option Byte :=
  t.sq.foldl (fun v e => if seq ≤ e.seq then v else match e.work with
    | .window ls => ls.foldl (fun v y =>
        if y.pa / 2 ^ 32 = core ∧ y.pa % 2 ^ 32 ≤ off ∧ off < y.pa % 2 ^ 32 + y.bytes.length then y.bytes[off - y.pa % 2 ^ 32]? else v) v
    | _ => v) none

/-- A lane of a window LDP added to those whose trap is due. -/
def failLate (l : List WinLoad) (x : WinLoad) (p : Nat × Nat × Nat) (a : Nat) : List WinLoad :=
  if l.any (·.id == x.id) then
    l.map fun y => if y.id = x.id then { y with lanes := y.lanes ++ [p], bad := y.bad ++ [(p.1, a)] } else y
  else l ++ [{ x with lanes := [p], bad := [(p.1, a)] }]

/-- The window address of a place of a core's pool. -/
def windowAddr (core off : Nat) : Nat := 0x80000000 + 0x400000 * (core % Config.coresPerQuadrant) + off

/-- A lane of a window LDP whose data has come: each byte from the team's own queue, else from the pool. A lane that meets a pool
word which cannot be corrected writes nothing, and the LDP's trap is due (R426, entry 62); a helper lane gets a value that is not
defined (R147). -/
def State.winLand (s : State) (x : WinLoad) (tm : Team) (p : Nat × Nat × Nat) : Team :=
  let put (v : Nat) : Team := tm.putFor x.p1 p.1 x.dest (x.tainted.contains p.1) (maskOf x.tainted) v x.regs
  let own (i : Nat) : Option Byte := tm.queuedPad x.seq p.2.1 (p.2.2 + i)
  let free : Team := put ((Config.free64 (x.id * 2 ^ 22 + p.1)).toNat + 2 ^ 64 * (Config.free64 (x.id * 2 ^ 22 + p.1 + 1024)).toNat)
  match s.block? p.2.1 with
  | some b =>
    if (List.range x.size).any fun i => (own i).isNone && meets b.upSp (p.2.2 + i) 1 then
      if x.helpers.contains p.1 then free
      else { tm with late := failLate tm.late x p (windowAddr p.2.1 p.2.2) }
    else put (leNat ((List.range x.size).map fun i => (own i).getD (b.spad? (p.2.2 + i))))
  | none => free

/-- A window LDP that TRET has issued again finds a line absent (R135, R399). -/
def State.winWaits (s : State) (x : WinLoad) : Bool :=
  x.again && x.lanes.any fun l => s.lineAbsent (l.2.1, l.2.2 / 128, 1) || s.lineAbsent (l.2.1, (l.2.2 + x.size - 1) / 128, 1)

/-- The window LDPs of a team whose data may come. -/
def State.winReady (s : State) (t : Team) : List WinLoad := t.wld.filter fun x => t.mayWindow x && !s.winWaits x

/-- WINDOW_LDP_REPLY: a window LDP of a team arrives, a free choice among those that nothing holds back (R140, R429, entry 1).
A copy that clears a line's presence later does not write it before (R135). -/
def execWindowLdpReply (core team : Nat) (s : State) : Host.Outcome State Fault Refusal :=
  .next (match s.team? core team with
    | none => s
    | some tm =>
      let land (s : State) (x : WinLoad) : State :=
        (s.setTeam core team { x.lanes.foldl (s.winLand x) tm with wld := tm.wld.filter (·.id != x.id) }).settle
      match s.winReady tm with
      | [] => s
      | [x] => land s x
      | x :: r =>
        let s := s.tick
        land s ((x :: r).getD (Config.pick s.fresh % (r.length + 1)) x))

/-- PRES: the presence bit of the line each lane's address lies in (R175). -/
def execPres (k : BitVec 3) (a : Opd) (z : Bool) (s : State) :=
  s.issue (.pres k a z) z .no [src1 a] fun c t tm s =>
    let addr (l : Nat) : Nat := (tm.read32 l a).toNat
    match s.padChecks c .read 1 (tm.active.map fun l => (l, addr l)) with
    | some x => s.raise c t x
    | none =>
      match s.ownCopyTrap c tm ((tm.active.filterMap fun l => s.padLine c (addr l)).filter s.lineAbsent) with
      | some k => s.raise c t k
      | none =>
        (s.setTeam c t (tm.setFlags k (tm.flagsOf fun l =>
          match s.padLine c (addr l) with
          | some x => !s.lineAbsent x
          | none => false))).finish c t z

end Sys2Proof.Machine
end

