-- ==== Sys2Proof/Machine/CopyEngine.lean ====
section
/-! DEFINITION. The copy engine: issue, start, index batches, rows, failed rows; and the sharing groups
(R134, R138, R139, R162 to R178). -/

namespace Sys2Proof.Machine

/-! The checks at issue (R164, R165). -/

/-- A descriptor field with a rejected value (Tables 9.4 to 9.6). -/
def Copy.rejected (x : Copy) : Bool :=
  2 ^ 9 ≤ x.ctl || x.swz = 3 || (x.swz != 0 && !x.ssp && !x.dsp) ||
  (x.ssp && (x.kind == .tfill || x.num 1 != 0)) || (x.kind == .tfill && x.num 1 != 0) ||
  (x.dsp && x.num 3 != 0) || (x.isp && x.strided) ||
  x.rowLen = 0 || 1048576 < x.rowLen ||
  (if x.strided then
     x.n1 = 0 || x.n2 = 0 || x.n3 = 0 || 2 ^ 16 ≤ x.num 7 || 65535 < x.n1 * x.n2 * x.n3
   else (x.isp && x.num 7 != 0) || x.num 8 = 0 || 2 ^ 16 ≤ x.num 8)

/-- The strides that the swizzled side uses with a count above 1 (R165). -/
def Copy.swzStrides (x : Copy) : List Int :=
  let d := x.dsp
  if x.strided then
    ([(8, x.n1), (10, x.n2), (12, x.n3)] : List (Nat × Nat)).filterMap fun p =>
      if 1 < p.2 then some (x.word (if d then p.1 + 1 else p.1)).toInt else none
  else
    let table := if x.kind == .tgath then !d else d
    if table then (if 1 < x.tRows then [(x.num 10 : Int)] else [])
    else (if 1 < x.rows then [(x.num 11 : Int)] else [])

/-- The misaligned address of an index list or a swizzled side. -/
def Copy.misaligned (x : Copy) : Option Nat :=
  if !x.strided && x.idxBase % 4 != 0 then some x.idxBase
  else if x.swz = 0 then none
  else
    let base := if x.dsp then x.dst else x.src
    if base % 128 != 0 || x.swzStrides.any (· % 128 != 0) then some base else none

/-- The extent of a strided side: its lowest and highest byte over the corners of the index space. -/
def Copy.corners (x : Copy) (base k : Nat) : Int × Int :=
  let part (n i : Nat) : Int × Int :=
    let e : Int := ((n : Int) - 1) * (x.word i).toInt
    (min 0 e, max 0 e)
  let a := part x.n1 k
  let b := part x.n2 (k + 2)
  let c := part x.n3 (k + 4)
  ((base : Int) + a.1 + b.1 + c.1, (base : Int) + a.2 + b.2 + c.2 + x.rowLen - 1)

/-- Rows at a pitch from a base. -/
def rowExtent (base n pitch len : Nat) : Int × Int := ((base : Int), (base : Int) + ((n : Int) - 1) * pitch + len - 1)

/-- The sides of a copy: in scratchpad or not, the access, the extent. DESIGN CHOICE (entry 25): where several fail one check of
R165, the source traps before the destination and both before the index list. -/
def Copy.sides (x : Copy) : List (Bool × Access × Int × Int) :=
  match x.kind with
  | .tcopy => [(x.ssp, .read, x.corners x.src 8), (x.dsp, .write, x.corners x.dst 9)]
  | .tfill => [(x.dsp, .write, x.corners x.dst 9)]
  | .tgath =>
    (if x.tRows = 0 then [] else [(x.ssp, .read, rowExtent x.src x.tRows (x.num 10) x.rowLen)]) ++
    [(x.dsp, .write, rowExtent x.dst x.rows (x.num 11) x.rowLen), (x.isp, .read, rowExtent x.idxBase x.rows 4 4)]
  | .tscat =>
    [(x.ssp, .read, rowExtent x.src x.rows (x.num 11) x.rowLen)] ++
    (if x.tRows = 0 then [] else [(x.dsp, .write, rowExtent x.dst x.tRows (x.num 10) x.rowLen)]) ++
    [(x.isp, .read, rowExtent x.idxBase x.rows 4 4)]

/-- The first non-canonical address of a global extent. -/
def sideNonCanonical (e : Int × Int) : Option Nat :=
  if e.1 < 0 then some (sideWrap false e.1)
  else if 2 ^ 56 ≤ e.2 then some (max e.1.toNat (2 ^ 56)) else none

/-- Where the region that holds a scratchpad address ends. -/
def State.padEnd (s : State) (b : Block) (m a o : Nat) : Nat :=
  if a < 0x80000000 then b.spBytes else a - o + ((s.block? m).map (·.spBytes)).getD 0

/-- The trap of a scratchpad extent: at its first byte that reaches nothing (R165, Table 7.3). -/
def State.padExtent (s : State) (c : Nat) (acc : Access) (e : Int × Int) : Option Trap :=
  let lo := sideWrap true e.1
  let at_ (a : Nat) : Option Trap :=
    (s.padTrap c acc a).map fun x => { cause := x.1, kind := .precise, addr := a, xfault := x.2 }
  match at_ lo, s.block? c with
  | some k, _ => some k
  | none, none => none
  | none, some b =>
    match s.padAt c b lo with
    | .pool m o _ => if (lo : Int) + (e.2 - e.1) < s.padEnd b m lo o then none else at_ (s.padEnd b m lo o)
    | .trap .. => none

/-- The checks of a copy, in order. -/
def State.copyTrap (s : State) (c : Nat) (x : Copy) : Option Trap :=
  if x.rejected then some (plainTrap .illegalInstruction)
  else match x.misaligned with
  | some a => some { plainTrap .misaligned with addr := a }
  | none =>
    match x.sides.findSome? fun d => if d.1 then none else sideNonCanonical (d.2.2.1, d.2.2.2) with
    | some a => some { plainTrap .nonCanonical with addr := a }
    | none => x.sides.findSome? fun d => if d.1 then s.padExtent c d.2.1 (d.2.2.1, d.2.2.2) else none

/-! Issue (R162, R163). -/

/-- The copies that have a place. -/
def Block.places (b : Block) : Nat := (b.copies.filter (·.admitted)).length

/-- The blocks that stand in the slots of a core's quadrant, by their serial numbers. -/
def State.serialsOf (s : State) (c : Nat) : PMap Nat :=
  (List.range Config.coresPerQuadrant).filterMap fun k =>
    (s.block? (coreQuadrant c * Config.coresPerQuadrant + k)).map fun b => (k, b.serial)

/-- The copy a word describes. -/
def Team.copyOf (t : Team) (team : Nat) (kind : CopyKind) (a : Opd) (id : Nat) (admitted : Bool) (serials : PMap Nat) :
    Copy where
  id := id
  team := team
  seq := t.seq
  kind := kind
  desc := (List.range (if kind == .tcopy || kind == .tfill then 14 else 12)).map fun i => BitVec.ofNat 32 (t.descWord a i)
  p1 := t.p1
  admitted := admitted
  started := false
  mark := t.sync
  issued := 0
  base := 0
  done := []
  batch := 0
  idx := []
  ibuf := []
  iwait := 0
  ibad := false
  flight := []
  released := []
  wrote := []
  failed := []
  counts := true
  serials := serials
  revoked := 0
  pc := t.wordPc

/-- A copy issues: where no place is free its word stays at issue until COPY_QUEUE_ADMIT. -/
def State.copyEffect (s : State) (c t : Nat) (tm : Team) (z : Bool) (kind : CopyKind) (a : Opd) : State :=
  if tm.second then
    if (s.teamCopies c t).any fun x => !x.admitted && x.counts then s else s.finish c t z
  else
    let s' := s.tick
    let free := ((s.block? c).map fun b => decide (b.places < Config.copies)).getD false
    let x := tm.copyOf t kind a s'.fresh free (s.serialsOf c)
    match s.copyTrap c x with
    | some k => s.raise c t k
    | none =>
      let s := (s'.modBlock c fun b => { b with copies := b.copies ++ [x] }).setTeam c t { tm with seq := tm.seq + 1, second := !free }
      if free then s.refreshPresence.finish c t z else s

def State.copyWord (s : State) (i : Instr) (kind : CopyKind) (a : Opd) (z : Bool) : Host.Outcome State Fault Refusal :=
  s.issue i z .no [srcN a (if kind == .tcopy || kind == .tfill then 14 else 12)] fun c t tm s =>
    if tm.fenced then s else s.copyEffect c t tm z kind a

def execTcopy (a : Opd) (z : Bool) (s : State) := s.copyWord (.tcopy a z) .tcopy a z
def execTgath (a : Opd) (z : Bool) (s : State) := s.copyWord (.tgath a z) .tgath a z
def execTscat (a : Opd) (z : Bool) (s : State) := s.copyWord (.tscat a z) .tscat a z
def execTfill (a : Opd) (z : Bool) (s : State) := s.copyWord (.tfill a z) .tfill a z

/-! The engine's own state. -/

def State.copy? (s : State) (c id : Nat) : Option Copy := (s.block? c).bind fun b => b.copies.find? (·.id == id)

def State.modCopy (s : State) (c id : Nat) (f : Copy → Copy) : State :=
  s.modBlock c fun b => { b with copies := b.copies.map fun x => if x.id = id then f x else x }

/-- COPY_QUEUE_ADMIT: the oldest copy without a place takes a free one. A copy that had none at its word's issue issues now, in
its team's home datapath's place among the passes of the cycle (R414), and behind every LDP and STP pass performed so far
(R135). A block that is to stop admits copies too: the clause that waits goes on to its boundary (R162, R406). -/
def execCopyQueueAdmit (core : Nat) (s : State) : Host.Outcome State Fault Refusal :=
  .next (match s.block? core with
    | none => s
    | some b =>
      match b.copies.find? fun x => !x.admitted with
      | none => s
      | some x =>
        let slot := 4 * s.cycle + x.team % 4
        if Config.copies ≤ b.places || (x.counts && decide (slot < (s.core core).slot)) then s
        else
          let s := s.tick
          let s := s.modCopy core x.id fun x => { x with admitted := true, id := s.fresh }
          (if x.counts then s.modCore core fun y => { y with slot := slot + 1 } else s).refreshPresence)

/-- A request is a write of a core that left its queue before a number was drawn. -/
def RemoteReq.writtenBefore (r : RemoteReq) (c n : Nat) : Bool :=
  match r.what with
  | .store c' _ _ _ stamp _ => c' == c && decide (stamp < n)
  | .atom c' .. => c' == c && decide (r.id < n)
  | _ => false

/-- The team's loads, acquires and queue entries before a copy have been performed (R169, R415). -/
def State.forkPast (s : State) (c : Nat) (x : Copy) : Bool :=
  match s.team? c x.team with
  | none => false
  | some tm =>
    tm.loadsDone x.seq && !(tm.sq.any fun e => decide (e.seq < x.seq)) &&
      !tm.atoms.any fun a => decide (a.seq < x.seq) && a.acq.isSome

/-- Every store of the core that the copy's team has met by an acquire or a barrier has been performed where the copy's accesses
are, and every earlier one of its team (R169, R415). -/
def State.forked (s : State) (c : Nat) (x : Copy) : Bool :=
  !((s.core c).order.any fun w => decide (w.stamp < x.mark) || (w.team == x.team && decide (w.seq < x.seq))) &&
  !s.remote.any fun r => r.writtenBefore c x.mark || (match r.what with
    | .store c' t' _ _ _ n | .atom c' t' _ _ n _ => c' == c && t' == x.team && decide (n < x.seq)
    | _ => false)

/-- The scratchpad lines that a copy may read, its index list among them: slot and line. -/
def Copy.sourceLines (x : Copy) : List (Nat × Nat) :=
  (if !x.ssp then []
   else if x.kind == .tgath then
     (if x.tRows = 0 then [] else linesOf (sideWrap true x.src) ((x.tRows - 1) * x.num 10 + x.rowLen))
   else (List.range x.rows).flatMap fun r => linesOf (x.srcAt r) x.rowLen) ++
  (if x.isp then linesOf x.idxBase (4 * x.rows) else [])

/-- The block and the line that a place of some core's pool lies in. -/
def State.lineAt (s : State) (m off : Nat) : Option (Nat × Nat) := (s.block? m).map fun b => (b.serial, off / 128)

/-- The serial number of the block on a core. -/
def State.serial (s : State) (c : Nat) : Nat := ((s.block? c).map (·.serial)).getD 0

/-- No window access ordered before the copy is still to be performed: an LDP or STP of a line that the copy writes, an STP of
one that it reads. An access of a written line that came after the copy's issue waits for its presence (R135). -/
def State.windowClear (s : State) (c : Nat) (x : Copy) : Bool :=
  let dst := x.owned (s.serial c) (x.linesFrom x.owed)
  let src := x.owned (s.serial c) x.sourceLines
  let hits (ls : List (Nat × Nat)) (m off : Nat) : Bool := ((s.lineAt m off).map ls.contains).getD false
  let q := coreQuadrant c * Config.coresPerQuadrant
  (List.range Config.coresPerQuadrant).all fun k => (List.range 16).all fun t =>
    match s.team? (q + k) t with
    | none => true
    | some tm =>
      !(tm.wld.any fun w => decide (w.id < x.id) && w.lanes.any fun l => hits dst l.2.1 l.2.2) &&
      !(tm.sq.any fun e => match e.work with
        | .window ls => ls.any fun l => hits dst (l.pa / 2 ^ 32) (l.pa % 2 ^ 32) || hits src (l.pa / 2 ^ 32) (l.pa % 2 ^ 32)
        | _ => false)

/-- The block of a core is being pre-empted: the engine starts nothing more (R174, R406). -/
def State.halting (s : State) (c : Nat) : Bool := ((s.block? c).map (·.stopping)).getD false

/-- COPY_START: the fork is over, and no window access ordered before the copy is left (R169, R135). -/
def execCopyStart (core id : Nat) (s : State) : Host.Outcome State Fault Refusal :=
  .next (match s.copy? core id with
    | none => s
    | some x =>
      if x.admitted && !s.halting core && s.forkPast core x && s.forked core x && s.windowClear core x then
        s.modCopy core id fun x => { x with started := true }
      else s)

/-! The end of a copy (R168, R172). -/

def Copy.firstFail (x : Copy) : Option RowFail :=
  x.failed.foldl (fun (m : Option RowFail) f => match m with
    | none => some f
    | some g => if f.row < g.row then some f else some g) none

/-- A copy with nothing left to do leaves the queue; one stopped at a row leaves it once the rows below it, and those above it
that have issued, are done: the other rows count, with CESTAT.IDX for an entry read that is out of range (R179), and one fault
entry is written (R168, R172). -/
def State.copySettle (s : State) (c id : Nat) : State :=
  match s.copy? c id with
  | none => s
  | some x =>
    let drop (s : State) : State := s.modBlock c fun b => { b with copies := b.copies.filter (·.id != id) }
    match x.firstFail with
    | none => if x.pending.isEmpty then (drop s).refreshPresence.settle else s.refreshPresence.settle
    | some f =>
      if x.flight.isEmpty && x.pending.all fun r => decide (f.row ≤ r ∧ x.issued ≤ r) || x.failed.any (·.row == r) then
        let s := drop s
        let e : FaultEntry := ⟨.copy { x with failed := [] } f.row, x.id, true, x.pc, x.ac, [⟨0, f.addr, false, false, f.cause, f.xfault⟩]⟩
        let s := s.modTeam c x.team fun tm =>
          let tm := if x.counts then tm.bump x.ac x.pending.length else tm
          (if x.pending.any fun r => x.read r && x.outOfRange r then { tm with cestat := tm.cestat ||| 1 } else tm).putEntry e
        s.refreshPresence.settle
      else s.refreshPresence.settle

/-- A row arrives (R168). -/
def State.rowDone (s : State) (c id r : Nat) : State :=
  match s.copy? c id with
  | none => s
  | some x =>
    let s := s.modCopy c id fun x => { x with
      done := r :: x.done, flight := x.flight.filter (·.row != r)
      wrote := if x.silent r then x.wrote else (r, BitVec.ofNat 32 (x.entry r)) :: x.wrote }
    let s := s.modTeam c x.team fun tm =>
      let tm := if x.counts then tm.bump x.ac 1 else tm
      if x.outOfRange r then { tm with cestat := tm.cestat ||| 1 } else tm
    s.copySettle c id

/-- A row fails (R172). -/
def State.rowFail (s : State) (c id : Nat) (f : RowFail) : State :=
  (s.modCopy c id fun x => { x with
    failed := x.failed ++ [f], flight := x.flight.filter (·.row != f.row) }).copySettle c id

/-! Reading and writing the sides. -/

/-- A run cut at the boundaries of the smallest pages: offset in the run, address, length. -/
def pageRuns : Nat → Nat → Nat → Nat → List (Nat × Nat × Nat)
  | 0, _, _, _ => []
  | n + 1, off, a, len =>
    if len = 0 then []
    else
      let k := min len (2 ^ 16 - a % 2 ^ 16)
      (off, a, k) :: pageRuns n (off + k) (a + k) (len - k)

/-- A run translated, or the failure of its first piece that fails. -/
def State.runPieces (s : State) (c : Nat) (p1 : Bool) (acc : Access) :
    List (Nat × Nat × Nat) → State × Except (Cause × Word × Nat) (List Piece)
  | [] => (s, .ok [])
  | x :: r =>
    match s.translate c (s.ctxOf c) x.2.1 acc p1 with
    | (s, .error e) => (s, .error (e.1, e.2, x.2.1))
    | (s, .ok pa) => match s.runPieces c p1 acc r with
      | (s, .error e) => (s, .error e)
      | (s, .ok l) => (s, .ok (⟨x.1, x.2.1, x.2.2, pa⟩ :: l))

/-- The local pieces' sectors read at home for a core. -/
def State.fillPieces (s : State) (c : Nat) (ps : List Piece) : State :=
  ps.foldl (fun s p => match s.route p.pa with
    | .local_ a => (sectorsOf a p.len).foldl (fun s x => s.homeRead c x) s
    | _ => s) s

/-- The first byte of a local piece that lies in a poisoned sector. -/
def State.poisonAt (s : State) (p : Piece) : Option Nat :=
  match s.route p.pa with
  | .local_ a => (List.range p.len).findSome? fun i => if s.poisoned ((a + i) / 64) then some (p.va + i) else none
  | _ => none

/-- A piece that reaches another device: the device and its address there. -/
def State.pieceRemote (s : State) (p : Piece) : Option (Nat × Nat) :=
  match s.route p.pa with
  | .remote d a => some (d, a)
  | _ => none

/-- The local pieces' bytes, by offset. -/
def State.readPieces (s : State) (c : Nat) (ps : List Piece) : State × PMap Byte :=
  ps.foldl (fun (a : State × PMap Byte) p => match a.1.route p.pa with
    | .local_ x => let r := a.1.readAt c x p.len; (r.1, putBytes a.2 p.off r.2)
    | _ => a) (s, [])

/-- Requests for every remote piece of a batch, or the failure of the first that cannot be sent. -/
def State.askPieces (s : State) (c : Nat) (what : Piece → RemoteFor) (op : Piece → RemoteOp) :
    List Piece → State × Option Nat
  | [] => (s, none)
  | p :: r =>
    match s.pieceRemote p with
    | none => s.askPieces c what op r
    | some (d, a) =>
      match s.request d (s.ctxOf c) a p.va (what p) (op p) with
      | (s, false) => (s, some p.va)
      | (s, true) => s.askPieces c what op r

def State.piecesFree (s : State) (c : Nat) (ps : List Piece) : Bool :=
  ps.all fun p => match s.pieceRemote p with
    | some (d, a) => s.rangeFree c d a p.len
    | none => true

/-- The first piece that this device refuses (R94, R96). -/
def State.refusedPiece (s : State) (ps : List Piece) : Option Piece :=
  ps.find? fun p => s.route p.pa == .refused

/-- The bytes of offsets of a scratchpad side, or the cause and the address of the first that cannot be read: its block is gone
(R174), or its word cannot be corrected. DESIGN CHOICE (entry 62): such a word fails the row as a poisoned sector does. -/
def State.padRead (s : State) (c : Nat) (x : Copy) (at_ : Nat → Nat) (n : Nat) : Except (Cause × Nat) (PMap Byte) :=
  (List.range n).foldl (fun (m : Except (Cause × Nat) (PMap Byte)) o => match m with
    | .error a => .error a
    | .ok m => match (s.padPlace c x (at_ o)).bind fun p => (s.block? p.1).map fun b => (b, p.2) with
      | none => .error (.groupRevoked, at_ o)
      | some (b, off) => if meets b.upSp off 1 then .error (.poisonedData, at_ o) else .ok (PMap.set m o (b.spad? off))) (.ok [])

/-- A row's slot has been revoked since its copy issued (R174). -/
def Copy.slotRevoked (x : Copy) (pad : Bool) (a : Nat) : Bool :=
  pad && decide (0x80000000 ≤ a) && x.revoked.getLsbD ((a - 0x80000000) / 0x400000)

/-- The address at which a row that is to issue meets a slot that is revoked, or a block that is gone (R172, R174); a row that
writes nothing meets none. DESIGN CHOICE (entry 25): the destination's where both its sides do. -/
def State.rowShut (s : State) (c : Nat) (x : Copy) (r : Nat) : Option Nat :=
  let shut (pad : Bool) (a : Nat) : Bool := x.slotRevoked pad a || (pad && (s.padPlace c x a).isNone)
  if x.silent r then none
  else if shut x.dsp (x.dstAt r) then some (x.dstAt r)
  else if x.kind != .tfill && !x.outOfRange r && shut x.ssp (x.srcAt r) then some (x.srcAt r)
  else none

/-- The words that bytes at some places do not write whole (R426). -/
def mendAt (up : List Nat) (offs : List Nat) : List Nat := up.filter fun w => !(List.range 8).all fun i => offs.contains (8 * w + i)

/-- Bytes into a scratchpad side, at the pools that its addresses name (R177: a row in flight is performed); a word written
whole is correct again (R426). -/
def State.padStore (s : State) (c : Nat) (x : Copy) (at_ : Nat → Nat) (bs : List Byte) : State :=
  let ws := ((List.range bs.length).zip bs).filterMap fun p => (s.padPlace c x (at_ p.1)).map fun k => (k, p.2)
  (ws.map (·.1.1)).eraseDups.foldl (fun s m => s.modBlock m fun b =>
    let mine := ws.filter (·.1.1 == m)
    { b with
      spad := mine.foldl (fun d w => PMap.set d w.1.2 w.2) b.spad
      upSp := mendAt b.upSp (mine.map (·.1.2)) }) s

def rowBytes (m : PMap Byte) (n : Nat) : List Byte := (List.range n).map fun o => (PMap.get? m o).getD 0

/-! Rows (R166, R167). -/

/-- Where a side's bytes of a row lie, swizzled rows by whole lines. -/
def hull (swz : Bool) (a len : Nat) : Nat × Nat :=
  if swz then (a / 128 * 128, (a + len + 127) / 128 * 128 - a / 128 * 128) else (a, len)

/-- A run of a side by the places it has: a pool's, or a physical address; none where it cannot be translated. -/
def State.sideRuns (s : State) (c : Nat) (x : Copy) (pad swz : Bool) (acc : Access) (a : Nat) : List (Bool × Nat × Nat) :=
  if pad then
    let h := hull (swz && x.swz != 0) a x.rowLen
    match s.padPlace c x h.1 with
    | some p => [(true, p.1 * 2 ^ 32 + p.2, h.2)]
    | none => []
  else match (s.runPieces c x.p1 acc (pageRuns 20 0 a x.rowLen)).2 with
    | .ok ps => ps.map fun p => (false, p.pa, p.len)
    | .error _ => []

def runsMeet (l m : List (Bool × Nat × Nat)) : Bool := l.any fun a => m.any fun b => a.1 == b.1 && overlap a.2.1 a.2.2 b.2.1 b.2.2

/-- The places a row writes. -/
def State.rowRuns (s : State) (c : Nat) (x : Copy) (r : Nat) : List (Bool × Nat × Nat) :=
  if x.silent r then [] else s.sideRuns c x x.dsp x.swzDst .write (x.dstAt r)

/-- A lower row still has to write where this one writes: the higher row's value is to remain (R167). -/
def State.overlapped (s : State) (c : Nat) (x : Copy) (r : Nat) : Bool :=
  let mine := s.rowRuns c x r
  x.pending.any fun q => decide (q < r) && !(x.failed.any (·.row == q)) && runsMeet (s.rowRuns c x q) mine

/-- A row that has issued may be performed now. -/
def State.rowReady (s : State) (c : Nat) (x : Copy) (r : Nat) : Bool :=
  x.admitted && x.started && x.pending.contains r && !(x.flight.any (·.row == r)) && decide (r < x.issued) &&
  !(x.failed.any (·.row == r)) && !s.overlapped c x r

/-- The source of a row has a part at another device. -/
def State.rowAsks (s : State) (c : Nat) (x : Copy) (r : Nat) : Bool :=
  if x.kind == .tfill || x.ssp || x.outOfRange r then false
  else match (s.runPieces c x.p1 .read (pageRuns 20 0 (x.srcAt r) x.rowLen)).2 with
    | .ok ps => ps.any fun p => (s.pieceRemote p).isSome
    | .error _ => false

/-- The next row of a copy may issue: none at or below it has failed (R172), the block goes on, and every request of the rows
before has left. -/
def State.mayIssue (s : State) (c : Nat) (x : Copy) : Bool :=
  x.admitted && x.started && (x.failed.all fun f => decide (x.issued < f.row)) && !s.halting c && x.read x.issued &&
    x.flight.all fun f => f.writing || f.todo.isEmpty

/-- Rows issue in ascending order up to a row (R166, R167): one whose source is at another device issues with its own
COPY_ROW_ARRIVES, since its requests leave then; the others are in flight from here on. A row that meets a revoked slot fails
(R172, R174). -/
def State.issueTo (s : State) (c id r : Nat) : Nat → State
  | 0 => s
  | n + 1 =>
    match s.copy? c id with
    | none => s
    | some x =>
      if r < x.issued || !s.mayIssue c x then s
      else match s.rowShut c x x.issued with
        | some a => s.rowFail c id ⟨x.issued, .groupRevoked, 0, a⟩
        | none =>
          if x.issued < r && s.rowAsks c x x.issued then s
          else (s.modCopy c id fun y => { y with issued := x.issued + 1 }).issueTo c id r n

/-- The places of the bytes of a row's side, in their order. -/
def State.sidePlaces (s : State) (c : Nat) (x : Copy) (pad : Bool) (acc : Access) (at_ : Nat → Nat) (a : Nat) :
    List (Option (Bool × Nat)) :=
  if pad then (List.range x.rowLen).map fun o => (s.padPlace c x (at_ o)).map fun p => (true, p.1 * 2 ^ 32 + p.2)
  else match (s.runPieces c x.p1 acc (pageRuns 20 0 a x.rowLen)).2 with
    | .ok ps => ps.flatMap fun p => (List.range p.len).map fun i => some (false, p.pa + i)
    | .error _ => []

/-- The loop of R166 over bytes read beforehand: a byte whose place the row has written meanwhile has the written value. -/
def chain : List ((Bool × Nat) × Byte) → List (Option (Bool × Nat)) → List (Option (Bool × Nat)) → List Byte → List Byte
  | w, src :: ss, dst :: ds, b :: bs =>
    let v := ((src.bind fun k => w.find? (·.1 == k)).map (·.2)).getD b
    v :: chain (match dst with | some k => (k, v) :: w | none => w) ss ds bs
  | _, _, _, bs => bs

/-- The bytes a row writes, from those it reads. -/
def State.rowValues (s : State) (c : Nat) (x : Copy) (r : Nat) (m : PMap Byte) : List Byte :=
  let bs := rowBytes m x.rowLen
  if runsMeet (s.sideRuns c x x.ssp x.swzSrc .read (x.srcAt r)) (s.rowRuns c x r) then
    chain [] (s.sidePlaces c x x.ssp .read (x.srcByte r) (x.srcAt r)) (s.sidePlaces c x x.dsp .write (x.dstByte r) (x.dstAt r)) bs
  else bs

/-- A row under way at another device changed. -/
def State.modFlight (s : State) (c id r : Nat) (f : RowFlight → RowFlight) : State :=
  s.modCopy c id fun x => { x with flight := x.flight.map fun y => if y.row = r then f y else y }

/-- What a piece of a row under way asks of its owner. -/
def RowFlight.ask (f : RowFlight) (c id : Nat) (p : Piece) : RemoteFor × RemoteOp :=
  if f.writing then (.copyWrite c id f.row, .write ((List.range p.len).map fun i => (PMap.get? f.data (p.off + i)).getD 0))
  else (.copyRead c id f.row p.off, .read p.len)

/-- The requests of a row still to be sent leave, in their order, while none to their sectors is out (R97). -/
def State.askMore (s : State) (c id : Nat) (f : RowFlight) : List Piece → State
  | [] => s
  | p :: r =>
    match s.pieceRemote p with
    | none => s
    | some (d, a) =>
      if !s.rangeFree c d a p.len then s
      else match s.request d (s.ctxOf c) a p.va (f.ask c id p).1 (f.ask c id p).2 with
        | (s, false) => s.rowFail c id ⟨f.row, .remoteTimeout, 0, p.va⟩
        | (s, true) => (s.modFlight c id f.row fun f => { f with todo := r, waits := f.waits + 1 }).askMore c id f r

/-- A row that reaches another device is under way. -/
def State.launchRow (s : State) (c id : Nat) (f : RowFlight) : State :=
  (s.modCopy c id fun x => { x with flight := f :: x.flight.filter (·.row != f.row) }).askMore c id f f.todo

/-- The row's bytes are written; it arrives, or waits for its owners' answers. DESIGN CHOICE (entry 23): its local bytes are written at
once, and stay where a part at another device fails. -/
def State.rowWrite (s : State) (c : Nat) (x : Copy) (r : Nat) (bs : List Byte) : State :=
  if x.dsp then (s.padStore c x (x.dstByte r) bs).rowDone c x.id r
  else
    match s.runPieces c x.p1 .write (pageRuns 20 0 (x.dstAt r) x.rowLen) with
    | (s, .error e) => s.rowFail c x.id ⟨r, e.1, e.2.1, e.2.2⟩
    | (s, .ok ps) =>
      match s.refusedPiece ps with
      | some p => s.rowFail c x.id ⟨r, .permission, 0, p.va⟩
      | none =>
        let far := ps.filter fun p => (s.pieceRemote p).isSome
        let s := ps.foldl (fun s p => match s.route p.pa with
          | .local_ a => s.writeAt c a ((bs.drop p.off).take p.len)
          | _ => s) s
        if far.isEmpty then s.rowDone c x.id r else s.launchRow c x.id ⟨r, putBytes [] 0 bs, true, far, 0⟩

/-- The row's bytes are read; it is written at once, or waits for its owners' answers. -/
def State.rowRead (s : State) (c : Nat) (x : Copy) (r : Nat) : State :=
  if x.kind == .tfill then
    s.rowWrite c x r ((List.range x.rowLen).map fun o => (natLe 4 (x.num 0)).getD (o % 4) 0)
  else if x.outOfRange r then s.rowWrite c x r (List.replicate x.rowLen 0)
  else if x.ssp then
    match s.padRead c x (x.srcByte r) x.rowLen with
    | .error a => s.rowFail c x.id ⟨r, a.1, 0, a.2⟩
    | .ok m => s.rowWrite c x r (s.rowValues c x r m)
  else
    match s.runPieces c x.p1 .read (pageRuns 20 0 (x.srcAt r) x.rowLen) with
    | (s, .error e) => s.rowFail c x.id ⟨r, e.1, e.2.1, e.2.2⟩
    | (s, .ok ps) =>
      let s := s.fillPieces c ps
      match s.refusedPiece ps, ps.findSome? s.poisonAt with
      | some p, _ => s.rowFail c x.id ⟨r, .permission, 0, p.va⟩
      | none, some a => s.rowFail c x.id ⟨r, .poisonedData, 0, a⟩
      | none, none =>
        let far := ps.filter fun p => (s.pieceRemote p).isSome
        match s.readPieces c ps with
        | (s, m) =>
          if far.isEmpty then s.rowWrite c x r (s.rowValues c x r m) else s.launchRow c x.id ⟨r, m, false, far, 0⟩

/-- COPY_ROW_ARRIVES: the rows up to this one issue, and it is performed whole; one that reaches another device is performed as
its answers come. -/
def execCopyRowArrives (core id row : Nat) (s : State) : Host.Outcome State Fault Refusal :=
  .next (match s.copy? core id with
    | none => s
    | some x =>
      match x.flight.find? (·.row == row) with
      | some f => s.askMore core id f f.todo
      | none =>
        let s := if x.pending.contains row then s.issueTo core id row (row + 1) else s
        match s.copy? core id with
        | none => s
        | some x =>
          if !s.rowReady core x row then s
          else if x.silent row then s.rowDone core id row
          else s.rowRead core x row)

/-- A remote piece of a row's source has come. -/
def State.rowGot (s : State) (c id r off : Nat) (bs : List Byte) : State :=
  match s.copy? c id with
  | none => s
  | some x =>
    match x.flight.find? (·.row == r) with
    | none => s
    | some f =>
      let f := { f with data := putBytes f.data off bs, waits := f.waits - 1 }
      let s := s.modFlight c id r fun _ => f
      if f.waits = 0 && f.todo.isEmpty then s.rowWrite c x r (s.rowValues c x r f.data) else s

/-- A remote piece of a row's destination is written. -/
def State.rowWrote (s : State) (c id r : Nat) : State :=
  match s.copy? c id with
  | none => s
  | some x =>
    match x.flight.find? (·.row == r) with
    | none => s
    | some f =>
      if f.waits ≤ 1 && f.todo.isEmpty then s.rowDone c id r
      else s.modFlight c id r fun f => { f with waits := f.waits - 1 }

/-! Index batches (R167, R172). -/

/-- Entries of the batch to read next. -/
def Copy.batchSize (x : Copy) : Nat := min 8 (x.rows - 8 * x.batch)

/-- The row that fails with its batch: the lowest of the batch still to perform. -/
def Copy.batchRow (x : Copy) : Nat := (x.pending.find? (8 * x.batch ≤ ·)).getD (8 * x.batch)

/-- The answers still to come for a copy's batch. -/
def State.batchOut (s : State) (c id : Nat) : Nat :=
  (s.remote.filter fun r => match r.what with | .copyIndex c' id' _ => c' == c && id' == id | _ => false).length

/-- A batch fails; answers that are still to come for it are awaited and change nothing more. -/
def State.batchFail (s : State) (c : Nat) (x : Copy) (cause : Cause) (xf : Word) (a : Nat) : State :=
  let n := s.batchOut c x.id
  let s := s.modCopy c x.id fun y => { y with ibuf := [], iwait := n, ibad := n != 0 }
  if x.ibad then s else s.rowFail c x.id ⟨x.batchRow, cause, xf, a⟩

/-- A batch whose bytes have all come. -/
def State.batchDone (s : State) (c id : Nat) (m : PMap Byte) : State :=
  s.modCopy c id fun x =>
    let ws := leWords (rowBytes m (4 * x.batchSize))
    { x with
      idx := ((List.range ws.length).zip ws).foldl (fun a p => PMap.set a (8 * x.batch + p.1) p.2) x.idx
      batch := x.batch + 1, ibuf := [], iwait := 0 }

/-- A batch is still wanted: rows are left to issue whose entries it holds, below the row that has failed where one has (R167,
R172). -/
def Copy.wantsBatch (x : Copy) : Bool :=
  !x.strided && x.iwait == 0 && decide (8 * x.batch < x.rows) &&
    (match x.firstFail with
     | none => true
     | some f => decide (x.issued < f.row) && !x.read x.issued)

/-- COPY_INDEX_BATCH. -/
def execCopyIndexBatch (core id : Nat) (s : State) : Host.Outcome State Fault Refusal :=
  .next (match s.copy? core id with
    | none => s
    | some x =>
      if !x.admitted || !x.started || s.halting core || !x.wantsBatch then s
      else
        let a := x.idxBase + 32 * x.batch
        let n := 4 * x.batchSize
        if x.slotRevoked x.isp a then s.batchFail core x .groupRevoked 0 a
        else if x.isp then
          match s.padRead core x (fun o => sideWrap true ((a : Int) + o)) n with
          | .error a => s.batchFail core x a.1 0 a.2
          | .ok m => s.batchDone core id m
        else
          match s.runPieces core x.p1 .read (pageRuns 2 0 a n) with
          | (s, .error e) => s.batchFail core x e.1 e.2.1 e.2.2
          | (s, .ok ps) =>
            let s := s.fillPieces core ps
            match s.refusedPiece ps, ps.findSome? s.poisonAt with
            | some p, _ => s.batchFail core x .permission 0 p.va
            | none, some a => s.batchFail core x .poisonedData 0 a
            | none, none =>
              let out := (ps.filter fun p => (s.pieceRemote p).isSome).length
              if !s.piecesFree core ps then s
              else
                match s.readPieces core ps with
                | (s, m) =>
                  if out = 0 then s.batchDone core id m
                  else
                    let s := s.modCopy core id fun x => { x with ibuf := m, iwait := out }
                    match s.askPieces core (fun p => .copyIndex core id p.off) (fun p => .read p.len) ps with
                    | (s, some a) => s.batchFail core x .remoteTimeout 0 a
                    | (s, none) => s)

/-- A remote piece of a batch has come. -/
def State.batchGot (s : State) (c id off : Nat) (bs : List Byte) : State :=
  match s.copy? c id with
  | none => s
  | some x =>
    let m := putBytes x.ibuf off bs
    if x.ibad then s.modCopy c id fun x => { x with iwait := x.iwait - 1, ibad := decide (1 < x.iwait) }
    else if x.iwait ≤ 1 then s.batchDone c id m
    else s.modCopy c id fun x => { x with ibuf := m, iwait := x.iwait - 1 }

/-! Sharing groups (R138, R139, R176 to R178). -/

def slotOf (c : Nat) : Nat := c % Config.coresPerQuadrant
def groupKey (ctx quadrant tag : Nat) : Nat := (ctx * 16 + quadrant) * 256 + tag

/-- A partition entry names a context with V = 1 (R35). -/
def State.allotted (s : State) (core ctx : Nat) : Bool :=
  match PMap.get? s.part core with
  | some e => e.getLsbD 15 && e.toNat % 256 == ctx
  | none => false

/-- Permission at a join word or a slot mask (R176, R178). -/
def groupDenied (w : Nat) : Trap :=
  { cause := .permission, kind := .precise, addr := w, xfault := xfaultWord 2 .read 0 0 }

/-- Whether SGJOIN is refused. -/
def State.joinDenied (s : State) (c : Nat) (b : Block) (w : Nat) : Bool :=
  let q := coreQuadrant c
  !bit w (slotOf c) ||
  ((List.range Config.coresPerQuadrant).any fun k =>
    bit w k && !s.allotted (q * Config.coresPerQuadrant + k) b.ctx) ||
  b.group.isSome ||
  (match PMap.get? s.sgroups (groupKey b.ctx q (bits w 12 8)) with
   | some g => g.set != BitVec.ofNat 12 w
   | none => false)

/-- SGJOIN. -/
def execSgjoin (a : Opd) (z : Bool) (s : State) : Host.Outcome State Fault Refusal :=
  s.issue (.sgjoin a z) z .no [src1 a] fun c t tm s =>
    match s.block? c with
    | none => s
    | some b =>
      let w := tm.descWord a 0
      if 2 ^ 20 ≤ w then s.raise c t (plainTrap .illegalInstruction)
      else if s.joinDenied c b w then s.raise c t (groupDenied w)
      else
        let q := coreQuadrant c
        let key := groupKey b.ctx q (bits w 12 8)
        let mine : BitVec 12 := BitVec.ofNat 12 (2 ^ slotOf c)
        let g := (PMap.get? s.sgroups key).getD ⟨b.ctx, q, bits w 12 8, BitVec.ofNat 12 w, 0, 0⟩
        let s := { s with sgroups := PMap.set s.sgroups key { g with joined := g.joined ||| mine, revoked := g.revoked &&& ~~~mine } }
        (s.modBlock c fun b => { b with group := some key }).finish c t z

def Copy.shut (x : Copy) (m : BitVec 12) : Copy := { x with revoked := x.revoked ||| m }

/-- Rows of a core's copies that have not issued may not reach some slots any more, those of failed copies among them. -/
def State.shutCopies (s : State) (c : Nat) (m : BitVec 12) : State :=
  let s := s.modBlock c fun b => { b with copies := b.copies.map (·.shut m) }
  let entry (e : FaultEntry) : FaultEntry := match e.what with
    | .copy x row => { e with what := .copy (x.shut m) row }
    | .pass .. => e
  (List.range 16).foldl (fun s t => s.modTeam c t fun tm =>
    { tm with faults := tm.faults.map entry, overflow := tm.overflow.map entry }) s

/-- The slot of a member revoked (R139), for the copies of every member; a member that leaves loses every slot (R174, R177). -/
def State.revokeSlot (s : State) (c : Nat) : State :=
  match (s.block? c).bind (·.group) with
  | none => s
  | some key =>
    let mine : BitVec 12 := BitVec.ofNat 12 (2 ^ slotOf c)
    let s := { s with sgroups := PMap.modify s.sgroups key fun (g : ShareGroup) =>
      { g with joined := g.joined &&& ~~~mine, revoked := g.revoked ||| mine } }
    (s.blocks.filter fun p => p.2.group == some key).foldl (fun s p =>
      s.shutCopies p.1 (if p.1 = c then BitVec.allOnes 12 else mine)) s

/-- The block leaves its group, which ends with the last block that belongs to it; rows that have not issued by now reach no slot
any more (R177). -/
def State.leaveGroup (s : State) (c : Nat) : State :=
  match (s.block? c).bind (·.group) with
  | none => s
  | some key =>
    let s := (s.modBlock c fun b => { b with group := none }).shutCopies c (BitVec.allOnes 12)
    match PMap.get? s.sgroups key with
    | some _ => if s.blocks.any fun p => p.2.group == some key then s else { s with sgroups := PMap.del s.sgroups key }
    | none => s

/-- The rows that have issued and are still to be performed. -/
def Copy.underWay (x : Copy) : List Nat := x.pending.filter fun r => decide (r < x.issued) && !x.failed.any (·.row == r)

/-- A row under way reaches a window slot whose block a test holds of. -/
def Copy.flies (x : Copy) (test : Nat → Bool) : Bool :=
  x.underWay.any fun r =>
    let hits (pad : Bool) (a : Nat) : Bool :=
      let k := (padSlot a).1
      pad && k != 0 && ((PMap.get? x.serials (k - 1)).map test).getD false
    (!x.silent r && hits x.dsp (x.dstAt r)) || (x.kind != .tfill && !x.outOfRange r && hits x.ssp (x.srcAt r))

/-- What SGLEAVE waits for (R139, R177). -/
def State.leaveReady (s : State) (c : Nat) : Bool :=
  let q := coreQuadrant c * Config.coresPerQuadrant
  (List.range Config.coresPerQuadrant).all fun k =>
    let m := q + k
    (((s.block? m).map (·.copies)).getD []).all (fun x => !x.flies fun n => m == c || n == s.serial c) &&
    (List.range 16).all fun t => match s.team? m t with
      | none => true
      | some tm =>
        !(tm.sq.any fun e => match e.work with
          | .window ls => ls.any fun x => x.pa / 2 ^ 32 == c
          | _ => false) &&
        !(tm.wld.any fun w => w.lanes.any fun x => x.2.1 == c)

/-- SGLEAVE: the slot is revoked first; the word stays at issue until what R139 names has been performed. -/
def execSgleave (z : Bool) (s : State) : Host.Outcome State Fault Refusal :=
  s.issue (.sgleave z) z .no [] fun c t tm s =>
    match (s.block? c).bind (·.group) with
    | none => s.finish c t z
    | some _ =>
      let s := if tm.second then s else (s.revokeSlot c).modTeam c t fun u => { u with second := true }
      if s.leaveReady c then (s.leaveGroup c).finish c t z else s

/-- SGMAP. -/
def execSgmap (a : Opd) (z : Bool) (s : State) : Host.Outcome State Fault Refusal :=
  s.issue (.sgmap a z) z .no [src1 a] fun c t tm s =>
    let w := tm.descWord a 0
    if 2 ^ 12 ≤ w then s.raise c t (plainTrap .illegalInstruction)
    else match ((s.block? c).bind (·.group)).bind (PMap.get? s.sgroups ·) with
    | none => s.raise c t (groupDenied w)
    | some g =>
      match (List.range 12).find? fun k => bit w k && g.revoked.getLsbD k with
      | some k => s.raise c t { plainTrap .groupRevoked with addr := 0x80000000 + k * 0x400000 }
      | none => (s.setTeam c t { tm with sgmask := BitVec.ofNat 12 w &&& g.joined }).finish c t z

end Sys2Proof.Machine
end

