-- ==== Sys2Proof/Machine/Fabric.lean ====
section
/-! DEFINITION. The fabric between devices: a request of another device served or refused, the answers to this
device's own requests, their timeouts, and owners that the transport cannot reach (R79, R96 to R101). -/

namespace Sys2Proof.Machine

/-! The owner's side (R96, R97). -/

/-- Whether an export entry lets a request of some bytes through (Tables 5.7 and 5.8). -/
def exportLets (e : Nat) (r : RemoteIn) (write : Bool) (len : Nat) : Bool :=
  let base := bits e 19 19
  let size := bits e 0 19
  bit e 63 && (!write || bit e 62) && bits e 46 13 == r.dev && decide (r.dev ≤ 4607) && bits e 38 8 == r.ctx &&
    size != 0 && decide ((base + size) * 2 ^ 21 ≤ Config.maxPA + 1) &&
    decide (base * 2 ^ 21 ≤ r.lpa) && decide (r.lpa + len ≤ (base + size) * 2 ^ 21)

/-- A request that needs W = 1. -/
def opWrites : RemoteOp → Bool
  | .read _ => false
  | _ => true

/-- Some entry of the table lets the request through. -/
def State.exported (s : State) (r : RemoteIn) : Bool :=
  s.exports.any fun p => decide (p.1 < 1024) && exportLets p.2.toNat r (opWrites r.op) (opSize r.op)

/-- A run's rows and held lines, as another party's access meets them; a sector that is read is made ready at its home
(R71, R125, R317). -/
def State.homeOpen (s : State) (pa n : Nat) (reads : Bool) : State :=
  (sectorsOf pa n).foldl (fun s x =>
    let s := s.recallAll (x / 2)
    if reads then s.homeFill x else s.touchRow (64 * x)) s

/-- The request performed at the home slice, and its answer. -/
def State.serveRemote (s : State) (r : RemoteIn) : State × RemoteAns :=
  let s := s.homeOpen r.lpa (opSize r.op) (match r.op with | .read _ => true | _ => false)
  let rmw (w : AtomWork) (y cmp : Nat) (ret : Bool) : State × RemoteAns :=
    match s.rmwHome w r.lpa y cmp with
    | (s, none) => (s, .poisoned)
    | (s, some (x, _)) => (s, if ret then .data (natLe w.bytes x) else .done)
  match r.op with
  | .read n =>
    if (sectorsOf r.lpa n).any s.poisoned then (s, .poisoned) else (s, .data (s.homeBytes r.lpa n))
  | .write bs => ((sectorParts r.lpa bs).foldl (fun s p => s.hbmAsk p.1 true) (s.homeWrite r.lpa bs), .done)
  | .atom op wide y cmp ret => rmw (.op op wide) y.toNat cmp.toNat ret
  | .cas128 cmp new => rmw .cas128 new.toNat cmp.toNat true

/-- REMOTE_REQUEST: served, or refused by the export table; no domain traffic is accepted before the device is
ready and has its ID, and none arrives without a port (R1, R79, R421). -/
def execRemoteRequest (r : RemoteIn) (s : State) : Host.Outcome State Fault Refusal :=
  .next (if !s.ready || !s.linked || s.deviceId.isNone then s
    else if !s.exported r then s.send (.answer r.dev r.id .refused)
    else match s.serveRemote r with
      | (s, a) => s.send (.answer r.dev r.id a))

/-! The requester's side (R98 to R101). -/

/-- The request leaves the list of those outstanding. -/
def State.dropRemote (s : State) (id : Nat) : State := { s with remote := s.remote.filter (·.id != id) }

/-- The lane of a pass that a load request is for. -/
def State.loadLane (s : State) (c t pass lane : Nat) : Option (OutPass × LaneReq) :=
  match s.team? c t with
  | none => none
  | some tm => match tm.out.find? (·.id == pass) with
    | none => none
    | some p => (p.lanes.find? (·.lane == lane)).map fun l => (p, l)

/-- What a request that fails leaves behind: a refusal, a timeout or the owner's poison. A team that has ended is told
nothing. -/
def State.remoteFail (s : State) (r : RemoteReq) (cause : Cause) : State :=
  match r.what with
  | .load c t pass lane => match s.loadLane c t pass lane with
    | some (p, l) => s.failLane c t p l true cause 0
    | none => s
  | .store c t lane va _ seq =>
    if teamAlive t then s.modTeam c t fun tm => tm.storeFails seq cause va (maskOf [lane]) else s
  | .atom c t id lane seq ret => s.atomOut c t id fun tm => tm.atomFail id seq lane ret cause r.va
  | .copyRead c id row _ => s.rowFail c id ⟨row, cause, 0, r.va⟩
  | .copyWrite c id row => s.rowFail c id ⟨row, cause, 0, r.va⟩
  | .copyIndex c id _ => match s.copy? c id with
    | some x => s.batchFail c x cause 0 r.va
    | none => s
  | .trace c live ptr => if !live then s
    else s.modTrace c fun tr => if ptr then { tr with stale := true } else tr.answer true

/-- Data that has come back. -/
def State.remoteData (s : State) (r : RemoteReq) (bs : List Byte) : State :=
  match r.what with
  | .load c t pass lane => match s.loadLane c t pass lane with
    | some (p, l) =>
      let x := leNat (s.overOrder c (l.pa.getD 0) bs)
      ((s.modTeam c t fun tm => tm.land p l x).acquired c t p.seq).arriveLane c t pass lane
    | none => s
  | .atom c t id lane .. => s.atomOut c t id fun tm => tm.atomGot id lane (leNat bs)
  | .copyRead c id row off => s.rowGot c id row off bs
  | .copyIndex c id off => s.batchGot c id off bs
  | _ => s

/-- A write that has been performed. -/
def State.remoteDone (s : State) (r : RemoteReq) : State :=
  match r.what with
  | .copyWrite c id row => s.rowWrote c id row
  | .trace c live ptr => if live && !ptr then s.modTrace c fun tr => tr.answer false else s
  | _ => s

/-- The answer is of the kind the request asks for. -/
def RemoteReq.fits (r : RemoteReq) (a : RemoteAns) : Bool :=
  let reads := match r.what with
    | .load .. | .copyRead .. | .copyIndex .. => true
    | .atom _ _ _ _ _ ret => ret
    | _ => false
  match a with
  | .data bs => reads && bs.length == r.len
  | .done => !reads
  | .refused => true
  | .poisoned => reads || (match r.what with | .atom .. => true | _ => false)

/-- The time that a request may take is over (R98). -/
def State.pastDue (s : State) (r : RemoteReq) : Bool := decide (r.at_ + s.remoteTimeout * Config.cyclesPerTenth ≤ s.cycle)

/-- REMOTE_REPLY: the answer to an outstanding request; a late one is discarded, and none comes without a port (R98). -/
def execRemoteReply (id : Nat) (a : RemoteAns) (s : State) : Host.Outcome State Fault Refusal :=
  .next (match (if s.linked then s.remote.find? (·.id == id) else none) with
    | none => s
    | some r =>
      if !r.fits a || s.pastDue r then s
      else
        let s := s.dropRemote id
        (match a with
          | .data bs => s.remoteData r bs
          | .done => s.remoteDone r
          | .refused => s.remoteFail r .permission
          | .poisoned => s.remoteFail r .poisonedData).settle)

/-- REMOTE_TIMEOUT of an outstanding request. -/
def execRemoteTimeout (id : Nat) (s : State) : Host.Outcome State Fault Refusal :=
  .next (match s.remote.find? (·.id == id) with
    | none => s
    | some r =>
      if !s.pastDue r then s
      else ((s.dropRemote id).remoteFail r .remoteTimeout).settle)

/-- OWNER_UNREACHABLE: every outstanding request to the owner fails at once. -/
def execOwnerUnreachable (dev : Nat) (s : State) : Host.Outcome State Fault Refusal :=
  .next (
    let mine := s.remote.filter (·.dev == dev)
    let s := { s with
      unreachable := if s.unreachable.contains dev then s.unreachable else dev :: s.unreachable
      remote := s.remote.filter (·.dev != dev) }
    (mine.foldl (fun s r => s.remoteFail r .remoteTimeout) s).settle)

/-- OWNER_REACHABLE: new requests are sent again. -/
def execOwnerReachable (dev : Nat) (s : State) : Host.Outcome State Fault Refusal :=
  .next { s with unreachable := s.unreachable.filter (· != dev) }

end Sys2Proof.Machine
end

