-- ==== Sys2Proof/Machine/Num.lean ====
section
/-! DEFINITION. Number formats and exact arithmetic (R185 to R197, R218 to R231): values are exact
signed dyadics, rounded once. -/

namespace Sys2Proof.Num

/-- A binary format: exponent width and fraction width (Table 11.8). -/
structure Fmt where
  ew : Nat
  fw : Nat
  deriving DecidableEq, Repr

def fp64 : Fmt := ⟨11, 52⟩
def fp32 : Fmt := ⟨8, 23⟩
def fp16 : Fmt := ⟨5, 10⟩
def bf16 : Fmt := ⟨8, 7⟩
def a24 : Fmt := ⟨8, 15⟩

/-- An exact value: NaN, a signed infinity, or (-1)^neg × m × 2^e. A zero keeps its sign. -/
inductive Val where
  | nan
  | inf (neg : Bool)
  | fin (neg : Bool) (m : Nat) (e : Int)
  deriving DecidableEq, Repr

def Fmt.bias (f : Fmt) : Nat := 2 ^ (f.ew - 1) - 1
/-- The weight of the last place of a subnormal. -/
def Fmt.low (f : Fmt) : Int := 1 - (f.bias : Int) - f.fw
/-- The bits of +infinity, of the largest finite value, of the sign, of the canonical NaN (R187). -/
def Fmt.infBits (f : Fmt) : Nat := (2 ^ f.ew - 1) * 2 ^ f.fw
def Fmt.sign (f : Fmt) : Nat := 2 ^ (f.ew + f.fw)
def Fmt.nanBits (f : Fmt) : Nat := f.infBits + 2 ^ (f.fw - 1)

/-- The value of a bit pattern (R186). -/
def Fmt.decode (f : Fmt) (x : Nat) : Val :=
  let neg := bit x (f.ew + f.fw)
  let e := bits x f.fw f.ew
  let m := bits x 0 f.fw
  if e = 2 ^ f.ew - 1 then (if m = 0 then .inf neg else .nan)
  else if e = 0 then .fin neg m f.low
  else .fin neg (2 ^ f.fw + m) (f.low + (e - 1))

/-- Whether a value cut to the quotient q with a rest is moved away from zero (Table 11.9): cmp
compares the rest with one half. -/
def roundsUp (r : Rnd) (neg : Bool) (q : Nat) (exact : Bool) (cmp : Ordering) : Bool :=
  match r with
  | .rn => cmp == .gt || (cmp == .eq && q % 2 == 1)
  | .rz => false
  | .ru => !exact && !neg
  | .rd => !exact && neg
  | .ro => !exact && q % 2 == 0

/-- m × 2^e as an integer count of 2^u, rounded by the mode. -/
def quantum (r : Rnd) (neg : Bool) (m : Nat) (e u : Int) : Nat :=
  if u ≤ e then m * 2 ^ (e - u).toNat
  else
    let d := (u - e).toNat
    let q := m / 2 ^ d
    let rest := m % 2 ^ d
    if roundsUp r neg q (rest == 0) (compare (2 * rest) (2 ^ d)) then q + 1 else q

/-- The magnitude bits of a result beyond the largest finite value (Table 11.9). -/
def Fmt.over (f : Fmt) (r : Rnd) (neg : Bool) : Nat :=
  match r with
  | .rn => f.infBits
  | .rz | .ro => f.infBits - 1
  | .ru => if neg then f.infBits - 1 else f.infBits
  | .rd => if neg then f.infBits else f.infBits - 1

/-- The magnitude bits of m × 2^e, m > 0, rounded once. DEDUCED (entry 71): under rn a value beyond the largest finite is rounded
first, as IEEE 754 has it, and is an infinity only from half a unit above. -/
def Fmt.mag (f : Fmt) (r : Rnd) (neg : Bool) (m : Nat) (e : Int) : Nat :=
  let top : Int := (Nat.log2 m : Int) + e
  if top > f.bias then f.over r neg
  else if top < f.low - 1 then (if roundsUp r neg 0 false .lt then 1 else 0)
  else
    let u := max (top - f.fw) f.low
    let x := (u - f.low).toNat * 2 ^ f.fw + quantum r neg m e u
    if x ≥ f.infBits then f.over r neg else x

/-- The bits of a value rounded once (R189, R187). -/
def Fmt.round (f : Fmt) (r : Rnd) : Val → Nat
  | .nan => f.nanBits
  | .inf neg => bnum neg * f.sign + f.infBits
  | .fin neg m e => bnum neg * f.sign + (if m = 0 then 0 else f.mag r neg m e)

def Val.isNan : Val → Bool
  | .nan => true
  | _ => false
def Val.isZero : Val → Bool
  | .fin _ 0 _ => true
  | _ => false

def Val.neg : Val → Val
  | .nan => .nan
  | .inf s => .inf (!s)
  | .fin s m e => .fin (!s) m e

/-- The signed integer m × 2^(e - lo). -/
def scaled (neg : Bool) (m : Nat) (e lo : Int) : Int :=
  let x : Int := m * 2 ^ (e - lo).toNat
  if neg then -x else x

/-- The exact sum; the sign of a zero result is that of R219. -/
def Val.add (r : Rnd) : Val → Val → Val
  | .nan, _ => .nan
  | _, .nan => .nan
  | .inf a, .inf b => if a = b then .inf a else .nan
  | .inf a, _ => .inf a
  | _, .inf b => .inf b
  | .fin na ma ea, .fin nb mb eb =>
    if ma = 0 ∧ mb = 0 then .fin (if na = nb then na else r == .rd) 0 0
    else if ma = 0 then .fin nb mb eb
    else if mb = 0 then .fin na ma ea
    else
      let lo := min ea eb
      let t := scaled na ma ea lo + scaled nb mb eb lo
      if t = 0 then .fin (r == .rd) 0 0 else .fin (decide (t < 0)) t.natAbs lo

/-- The exact product (R219, R266). -/
def Val.mul : Val → Val → Val
  | .nan, _ => .nan
  | _, .nan => .nan
  | .inf a, .inf b => .inf (a != b)
  | .inf a, .fin b m _ => if m = 0 then .nan else .inf (a != b)
  | .fin a m _, .inf b => if m = 0 then .nan else .inf (a != b)
  | .fin a ma ea, .fin b mb eb => .fin (a != b) (ma * mb) (ea + eb)

/-- Order of two values that are no NaN; zeros are equal. -/
def Val.cmp : Val → Val → Ordering
  | .inf a, .inf b => if a = b then .eq else if a then .lt else .gt
  | .inf a, _ => if a then .lt else .gt
  | _, .inf b => if b then .gt else .lt
  | .fin na ma ea, .fin nb mb eb =>
    let lo := min ea eb
    compare (scaled na ma ea lo) (scaled nb mb eb lo)
  | _, _ => .eq

def Val.isNeg : Val → Bool
  | .nan => false
  | .inf s => s
  | .fin s _ _ => s

/-- minimumNumber (lo = true) and maximumNumber on bit patterns (R220). -/
def Fmt.minmax (f : Fmt) (lo : Bool) (x y : Nat) : Nat :=
  let a := f.decode x
  let b := f.decode y
  if a.isNan && b.isNan then f.nanBits
  else if a.isNan then y
  else if b.isNan then x
  else match a.cmp b with
    | .lt => if lo then x else y
    | .gt => if lo then y else x
    | .eq => if a.isNeg == lo then x else y

/-- The conditions of FCMP (R222). -/
def fcond (c : FCond) (a b : Val) : Bool :=
  let un := a.isNan || b.isNan
  let o := a.cmp b
  match c with
  | .un => un
  | .eq => !un && o == .eq
  | .ne => un || o != .eq
  | .lt => !un && o == .lt
  | .le => !un && o != .gt
  | .gt => !un && o == .gt
  | .ge => !un && o != .lt

/-- Rounding to an integer by the mode, before any clamp (R227). -/
def roundInt (r : Rnd) (neg : Bool) (m : Nat) (e : Int) : Int :=
  let q : Int := quantum r neg m e 0
  if neg then -q else q

/-- Conversion to an integer in [lo, hi] (R227). -/
def toInt (r : Rnd) (lo hi : Int) : Val → Int
  | .nan => 0
  | .inf neg => if neg then lo else hi
  | .fin neg m e => max lo (min hi (roundInt r neg m e))

def ofInt (i : Int) : Val := .fin (decide (i < 0)) i.natAbs 0

/-! SHELF8 (R190 to R193). -/

/-- The exponent and significand of magnitude code p > 0: p stands for m × 2^e (Table 11.12). -/
def shelfMag (p : Nat) : Nat × Int :=
  let n := Nat.log2 p
  let x := p - 2 ^ n
  match n with
  | 6 => (16 + x % 16, ((x / 16 : Nat) : Int) - 2 - 4)
  | 5 => (4 + x % 4, (if x / 4 < 4 then ((x / 4 : Nat) : Int) - 6 else ((x / 4 : Nat) : Int) - 2) - 2)
  | 4 => (1, if x < 8 then (x : Int) - 14 else (x : Int) - 2)
  | 3 => (1, if x < 4 then (x : Int) - 18 else (x : Int) + 10)
  | 2 => (1, if x < 2 then (x : Int) - 20 else (x : Int) + 16)
  | 1 => (1, if x = 0 then -21 else 20)
  | _ => (1, 21)

/-- The value of a SHELF8 byte; NaR reads as NaN (R190). -/
def shelf8 (b : Nat) : Val :=
  let p := b % 128
  let s := bit b 7
  if p = 0 then (if s then .nan else .fin false 0 0)
  else .fin s (shelfMag p).1 (shelfMag p).2

/-- The magnitude of code p in units of 2^-25, an integer. -/
def shelfUnits (p : Nat) : Nat :=
  if p = 0 then 0 else (shelfMag p).1 * 2 ^ ((shelfMag p).2 + 25).toNat

/-- Conversion to SHELF8 (R193, Table 11.14). -/
def toShelf8 (r : Rnd) : Val → Nat
  | .nan => 0x80
  | .inf neg => bnum neg * 128 + 1
  | .fin neg m e =>
    if m = 0 then 0
    else
      let d := (-(e + 25)).toNat
      let x := m * 2 ^ (e + 25 + d).toNat
      let u (p : Nat) := shelfUnits p * 2 ^ d
      if x > u 1 then bnum neg * 128 + 1
      else
        let a := (List.range 128).foldl (fun b p => if u p ≤ x && u b ≤ u p then p else b) 0
        let b := (List.range 128).foldl (fun b p => if x ≤ u p && u p ≤ u b then p else b) 1
        let c :=
          if u a = x then a
          else match r with
            | .rz => a
            | .ru => if neg then a else b
            | .rd => if neg then b else a
            | .ro => if a % 2 = 0 ∧ b % 2 = 1 then b else a
            | .rn =>
              match compare (x - u a) (u b - x) with
              | .lt => a
              | .gt => b
              | .eq => if a % 2 = 1 ∧ b % 2 = 0 then b else a
        if c = 0 then 0 else bnum neg * 128 + c

/-- An E8 scale byte as a factor (R195). -/
def e8 (b : Nat) : Val := if b = 255 then .nan else .fin false 1 ((b : Int) - 127)

/-! Square roots and quotients, cut to a dyadic that carries a sticky last bit. -/

/-- ⌊√x⌋ for x < 4^k, bit by bit. -/
def isqrt (x : Nat) : Nat → Nat → Nat
  | 0, acc => acc
  | k + 1, acc => isqrt x k (if (acc + 2 ^ k) * (acc + 2 ^ k) ≤ x then acc + 2 ^ k else acc)

/-- A cut value q × 2^e that stands for something in [q, q + 1) × 2^e, exact or not. -/
def sticky (neg : Bool) (q : Nat) (exact : Bool) (e : Int) : Val :=
  .fin neg (2 * q + (if exact then 0 else 1)) (e - 1)

/-- 1 / (m × 2^e), m > 0. -/
def recip (neg : Bool) (m : Nat) (e : Int) : Val :=
  let k := Nat.log2 m + 64
  sticky neg (2 ^ k / m) (2 ^ k % m == 0) (-(k : Int) - e)

/-- m × 2^e with an even exponent. -/
def evenExp (m : Nat) (e : Int) : Nat × Int := if e % 2 = 0 then (m, e) else (2 * m, e - 1)

/-- √(m × 2^e). -/
def root (m : Nat) (e : Int) : Val :=
  let x := (evenExp m e).1 * 2 ^ 128
  let q := isqrt x (Nat.log2 x / 2 + 1) 0
  sticky false q (q * q == x) ((evenExp m e).2 / 2 - 64)

/-- 1 / √(m × 2^e). -/
def rroot (m : Nat) (e : Int) : Val :=
  let m' := (evenExp m e).1
  let x := 2 ^ 256 / m'
  let q := isqrt x 129 0
  sticky false q (q * q * m' == 2 ^ 256) (-128 - (evenExp m e).2 / 2)

/-! Series in fixed point with 256 fraction bits (entry 8). -/

def one : Nat := 2 ^ 256
/-- ln 2 and π. -/
def ln2 : Nat := 80260960185991308862233904206310070533990667611589946606122867505419956976171
def pi : Nat := 363771576891766324280234942777729862653393377328392429958772151117938894466185
def fmulFix (a b : Nat) : Nat := a * b / one

/-- The exponential series: term x^k / k!, for k from i on. -/
def expSeries (x : Nat) : Nat → Nat → Nat → Nat → Nat
  | 0, _, _, acc => acc
  | n + 1, i, t, acc => expSeries x n (i + 1) (fmulFix t x / (i + 1)) (acc + t)

/-- Alternating series with terms y^2 / ((i + 1)(i + 2)) apart: sine and cosine. -/
def trigSeries (y2 : Nat) : Nat → Nat → Nat → Bool → Int → Int
  | 0, _, _, _, acc => acc
  | n + 1, i, t, plus, acc =>
    trigSeries y2 n (i + 2) (fmulFix t y2 / ((i + 1) * (i + 2))) (!plus) (if plus then acc + t else acc - t)

/-- The series of artanh. -/
def artanhSeries (u2 : Nat) : Nat → Nat → Nat → Nat → Nat
  | 0, _, _, acc => acc
  | n + 1, i, t, acc => artanhSeries u2 n (i + 2) (fmulFix t u2) (acc + t / i)

/-- 2^f for a fixed-point f in [0, 1). -/
def exp2Fix (f : Nat) : Nat := expSeries (fmulFix f ln2) 90 0 one 0

/-- log2 z for a fixed-point z in [1, 2). -/
def log2Fix (z : Nat) : Nat :=
  let u := (z - one) * one / (z + one)
  2 * artanhSeries (fmulFix u u) 90 1 u 0 * one / ln2

/-- sin(π f) and cos(π f) for a fixed-point f in [0, 1/2]. -/
def sinFix (f : Nat) : Nat :=
  let y := fmulFix f pi
  (trigSeries (fmulFix y y) 60 1 y true 0).toNat
def cosFix (f : Nat) : Nat :=
  let y := fmulFix f pi
  min (one - 1) (trigSeries (fmulFix y y) 60 0 one true 0).toNat

/-- tanh x for a fixed-point x below 9. -/
def tanhFix (x : Nat) : Nat :=
  let ex := expSeries (2 * x) 200 0 one 0
  (ex - one) * one / (ex + one)

end Sys2Proof.Num
end

