-- ==== Sys2Proof/Machine/Sfu.lean ====
section
/-! DEFINITION. The special functions of major 0x16 (R232 to R234, Tables 13.1 and 13.2). -/

namespace Sys2Proof.Num

/-- The bits of an FP32 result. -/
def f32 (r : Rnd) (v : Val) : Word := BitVec.ofNat 32 (fp32.round r v)
def f32v (w : Word) : Val := fp32.decode w.toNat
def nan32 : Word := 0x7FC00000
def inf32 (neg : Bool) : Word := if neg then 0xFF800000 else 0x7F800000
def zero32 (neg : Bool) : Word := if neg then 0x80000000 else 0
def one32 (neg : Bool) : Word := if neg then 0xBF800000 else 0x3F800000

/-- A faithful result (R233): one of the two FP32 values that bracket the exact one, which of them is a
free value for each function and operand (entry 7). -/
def faithful (fn : Nat) (a : Word) (v : Val) : Word :=
  if Config.sfuUpper fn a then f32 .ru v else f32 .rd v

/-- A fixed-point count x of 2^-256, known to lie strictly between x and x + 1. -/
def between (neg : Bool) (x : Nat) : Val := sticky neg x false (-256)

/-- The magnitude of a finite operand in fixed point, cut. -/
def fix (m : Nat) (e : Int) : Nat := if 0 ≤ e + 256 then m * 2 ^ (e + 256).toNat else m / 2 ^ (-(e + 256)).toNat

/-- Whether m × 2^e is a whole number of 2^k. -/
def wholeOf (m : Nat) (e k : Int) : Bool := k ≤ e || m % 2 ^ (k - e).toNat == 0

/-- ⌊(m × 2^e) / 2^k⌋. -/
def floorAt (m : Nat) (e k : Int) : Nat := if k ≤ e then m * 2 ^ (e - k).toNat else m / 2 ^ (k - e).toNat

def rcp (a : Word) : Word :=
  match f32v a with
  | .nan => nan32
  | .inf s => zero32 s
  | .fin s m e => if m = 0 then inf32 s else f32 .rn (recip s m e)

def sqrt (a : Word) : Word :=
  match f32v a with
  | .nan => nan32
  | .inf s => if s then nan32 else a
  | .fin s m e => if m = 0 then a else if s then nan32 else f32 .rn (root m e)

def rsq (a : Word) : Word :=
  match f32v a with
  | .nan => nan32
  | .inf s => if s then nan32 else zero32 false
  | .fin s m e => if m = 0 then inf32 s else if s then nan32 else faithful 1 a (rroot m e)

/-- EX2, also the ex2 of R289. -/
def ex2 (a : Word) : Word :=
  match f32v a with
  | .nan => nan32
  | .inf s => if s then zero32 false else inf32 false
  | .fin s m e =>
    if m = 0 then one32 false
    else
      let n := floorAt m e 0
      if !s && n ≥ 128 then inf32 false
      else if s && n ≥ 150 then zero32 false
      else if wholeOf m e 0 then f32 .rn (.fin false 1 (if s then -(n : Int) else n))
      else
        let f := fix m e - n * one
        let i : Int := if s then -(n : Int) - 1 else n
        let t := min (2 * one - 1) (exp2Fix (if s then one - f else f))
        faithful 3 a (sticky false t false (i - 256))

def lg2 (a : Word) : Word :=
  match f32v a with
  | .nan => nan32
  | .inf s => if s then nan32 else inf32 false
  | .fin s m e =>
    if m = 0 then inf32 true
    else if s then nan32
    else
      let k := Nat.log2 m
      let n : Int := k + e
      if m = 2 ^ k then f32 .rn (ofInt n)
      else
        let f := log2Fix (m * 2 ^ (256 - k))
        if 0 ≤ n then faithful 4 a (between false (n.toNat * one + f))
        else faithful 4 a (between true ((-n).toNat * one - f - 1))

/-- sin(π·a) and cos(π·a). The operand is reduced exactly to quarter turns: |a| = h / 2 + f. -/
def sinCosPi (cos : Bool) (a : Word) : Word :=
  match f32v a with
  | .nan => nan32
  | .inf _ => nan32
  | .fin s m e =>
    let h := floorAt m e (-1) % 4
    let f := fix m e % (one / 2)
    let g := if cos then (h + 1) % 4 else h       -- cos(πa) = sin(πa + π/2)
    let neg := decide (2 ≤ g) != (s && !cos)
    if wholeOf m e (-1) then
      if g % 2 = 0 then (if cos then zero32 false else zero32 s) else one32 neg
    else if wholeOf m e (-2) then f32 .rn (.fin neg 0xB504F3 (-24))
    else
      let x := if g % 2 = 0 then sinFix f else cosFix f
      faithful (if cos then 6 else 5) a (between neg x)

def tanh (a : Word) : Word :=
  match f32v a with
  | .nan => nan32
  | .inf s => one32 s
  | .fin s m e =>
    if floorAt m e 0 ≥ 9 then one32 s
    else if floorAt m e (-12) = 0 then a
    else faithful 7 a (between s (tanhFix (fix m e)))

end Sys2Proof.Num
end

