-- ==== Sys2Proof/Machine/Float.lean ====
section
/-! DEFINITION. FP32, FP64, packed, conversion, dot-product and exponent words and the special functions: majors
0x10 to 0x16 (R218 to R235). -/

namespace Sys2Proof.Machine

open Sys2Proof.Num

/-! The functions on bit patterns of a format. -/

def fadd (f : Fmt) (r : Rnd) (a b : Nat) : Nat := f.round r ((f.decode a).add r (f.decode b))
def fsub (f : Fmt) (r : Rnd) (a b : Nat) : Nat := f.round r ((f.decode a).add r (f.decode b).neg)
def fmul (f : Fmt) (r : Rnd) (a b : Nat) : Nat := f.round r ((f.decode a).mul (f.decode b))
def ffma (f : Fmt) (r : Rnd) (a b d : Nat) : Nat := f.round r (((f.decode a).mul (f.decode b)).add r (f.decode d))
def fabs (f : Fmt) (a : Nat) : Nat := a % f.sign
def fneg (f : Fmt) (a : Nat) : Nat := if bit a (f.ew + f.fw) then a - f.sign else a + f.sign

/-! Shapes. FP32 words read single registers, FP64 words pairs (R223). -/

def is64 (f : Fmt) : Bool := f == fp64

/-- A value of two operands. -/
def State.fp2 (s : State) (i : Instr) (m : Fmt) (f : AB) (g : Rnd → Nat → Nat → Nat) : Host.Outcome State Fault Refusal :=
  s.compute i f.z .no [srcP f.a (is64 m), srcP f.b (is64 m), dstP f.d (is64 m)] fun t =>
    t.result .mul f.d f.n (regsOf (is64 m)) (t.fun2 (is64 m) (is64 m) f.a f.b fun a b => ofNat64 (g t.rnd a.toNat b.toNat))

/-- A value of two operands and the destination. -/
def State.fp3 (s : State) (i : Instr) (m : Fmt) (f : AB) (g : Rnd → Nat → Nat → Nat → Nat) : Host.Outcome State Fault Refusal :=
  s.compute i f.z .no [srcP f.a (is64 m), srcP f.b (is64 m), srcP f.d (is64 m), dstP f.d (is64 m)] fun t =>
    t.result .mul f.d f.n (regsOf (is64 m)) (t.fun3 (is64 m) (is64 m) f.a f.b f.d fun a b d =>
      ofNat64 (g t.rnd a.toNat b.toNat d.toNat))

def State.fp1 (s : State) (i : Instr) (m : Fmt) (f : A1) (g : Nat → Nat) : Host.Outcome State Fault Refusal :=
  s.compute i f.z .no [srcP f.a (is64 m), dstP f.d (is64 m)] fun t =>
    t.result .mul f.d f.n (regsOf (is64 m)) (t.fun1 (is64 m) f.a fun a => ofNat64 (g a.toNat))

def State.fpCmp (s : State) (i : Instr) (m : Fmt) (k : BitVec 3) (c : FCond) (a b : Opd) (z : Bool) :
    Host.Outcome State Fault Refusal :=
  s.compute i z .no [srcP a (is64 m), srcP b (is64 m)] fun t =>
    t.setFlags k (t.flagsOf fun l =>
      fcond c (m.decode (t.read (is64 m) l a).val.toNat) (m.decode (t.read (is64 m) l b).val.toNat))

def execFadd (f : AB) (s : State) := s.fp2 (.fadd f) fp32 f (fadd fp32)
def execFsub (f : AB) (s : State) := s.fp2 (.fsub f) fp32 f (fsub fp32)
def execFmul (f : AB) (s : State) := s.fp2 (.fmul f) fp32 f (fmul fp32)
def execFfma (f : AB) (s : State) := s.fp3 (.ffma f) fp32 f (ffma fp32)
def execFmin (f : AB) (s : State) := s.fp2 (.fmin f) fp32 f fun _ => fp32.minmax true
def execFmax (f : AB) (s : State) := s.fp2 (.fmax f) fp32 f fun _ => fp32.minmax false
def execFabs (f : A1) (s : State) := s.fp1 (.fabs f) fp32 f (fabs fp32)
def execFneg (f : A1) (s : State) := s.fp1 (.fneg f) fp32 f (fneg fp32)
def execFcmp (k : BitVec 3) (c : FCond) (a b : Opd) (z : Bool) (s : State) := s.fpCmp (.fcmp k c a b z) fp32 k c a b z
def execDadd (f : AB) (s : State) := s.fp2 (.dadd f) fp64 f (fadd fp64)
def execDsub (f : AB) (s : State) := s.fp2 (.dsub f) fp64 f (fsub fp64)
def execDmul (f : AB) (s : State) := s.fp2 (.dmul f) fp64 f (fmul fp64)
def execDfma (f : AB) (s : State) := s.fp3 (.dfma f) fp64 f (ffma fp64)
def execDmin (f : AB) (s : State) := s.fp2 (.dmin f) fp64 f fun _ => fp64.minmax true
def execDmax (f : AB) (s : State) := s.fp2 (.dmax f) fp64 f fun _ => fp64.minmax false
def execDabs (f : A1) (s : State) := s.fp1 (.dabs f) fp64 f (fabs fp64)
def execDneg (f : A1) (s : State) := s.fp1 (.dneg f) fp64 f (fneg fp64)
def execDcmp (k : BitVec 3) (c : FCond) (a b : Opd) (z : Bool) (s : State) := s.fpCmp (.dcmp k c a b z) fp64 k c a b z

/-! Packed (R224): a function on each 16-bit element. -/

def el (x i : Nat) : Nat := bits x (16 * i) 16
def packed (g : Nat → Nat) : Nat := g 0 + 2 ^ 16 * g 1
def pk2 (h : Nat → Nat → Nat) (a b : Nat) : Nat := packed fun i => h (el a i) (el b i)
def pk3 (h : Nat → Nat → Nat → Nat) (a b d : Nat) : Nat := packed fun i => h (el a i) (el b i) (el d i)

def execHfma2 (f : AB) (s : State) := s.fp3 (.hfma2 f) fp32 f fun r => pk3 (ffma fp16 r)
def execBfma2 (f : AB) (s : State) := s.fp3 (.bfma2 f) fp32 f fun r => pk3 (ffma bf16 r)
def execHadd2 (f : AB) (s : State) := s.fp2 (.hadd2 f) fp32 f fun r => pk2 (fadd fp16 r)
def execBadd2 (f : AB) (s : State) := s.fp2 (.badd2 f) fp32 f fun r => pk2 (fadd bf16 r)
def execHmul2 (f : AB) (s : State) := s.fp2 (.hmul2 f) fp32 f fun r => pk2 (fmul fp16 r)
def execBmul2 (f : AB) (s : State) := s.fp2 (.bmul2 f) fp32 f fun r => pk2 (fmul bf16 r)

/-! Conversions (R225 to R227). -/

def ofInt32 (i : Int) : Nat := (BitVec.ofInt 32 i).toNat
def ofInt64 (i : Int) : Nat := (BitVec.ofInt 64 i).toNat

/-- The pair operands of Table 12.6: source, destination. -/
def cvtPairs : CvtForm → Bool × Bool
  | .f32f64 | .s32f64 => (true, false)
  | .s64f64 | .f64s64 => (true, true)
  | .f64f32 | .f64s32 => (false, true)
  | _ => (false, false)

/-- The conversion (Table 12.6). -/
def cvtApply (form : CvtForm) (r : Rnd) (a : Nat) : Nat :=
  match form with
  | .f16f32 => fp16.round r (fp32.decode a)
  | .bf16f32 => bf16.round r (fp32.decode a)
  | .shelf8f32 => toShelf8 r (fp32.decode a)
  | .s32f32 => ofInt32 (toInt r (-2 ^ 31) (2 ^ 31 - 1) (fp32.decode a))
  | .u32f32 => ofInt32 (toInt r 0 (2 ^ 32 - 1) (fp32.decode a))
  | .f32f64 => fp32.round r (fp64.decode a)
  | .s32f64 => ofInt32 (toInt r (-2 ^ 31) (2 ^ 31 - 1) (fp64.decode a))
  | .s64f64 => ofInt64 (toInt r (-2 ^ 63) (2 ^ 63 - 1) (fp64.decode a))
  | .f32s32 => fp32.round r (ofInt (BitVec.ofNat 32 a).toInt)
  | .f32u32 => fp32.round r (ofInt (BitVec.ofNat 32 a).toNat)
  | .f64s64 => fp64.round r (ofInt (BitVec.ofNat 64 a).toInt)
  | .f32f16 => fp32.round .rn (fp16.decode (bits a 0 16))
  | .f32bf16 => fp32.round .rn (bf16.decode (bits a 0 16))
  | .f32shelf8 => fp32.round .rn (shelf8 (bits a 0 8))
  | .f64f32 => fp64.round .rn (fp32.decode a)
  | .f64s32 => fp64.round .rn (ofInt (BitVec.ofNat 32 a).toInt)

def execCvt (f : A1) (form : CvtForm) (r : Rnd) (s : State) :=
  s.compute (.cvt f form r) f.z .no [srcP f.a (cvtPairs form).1, dstP f.d (cvtPairs form).2] fun t =>
    t.result .cvt f.d f.n (regsOf (cvtPairs form).2)
      (t.fun1 (cvtPairs form).1 f.a fun a => ofNat64 (cvtApply form r a.toNat))

/-! Narrow dot products (R228, R229). -/

/-- The register above B, in B's class: the scale register. -/
def scaleOpd : Opd → Opd
  | .v n => if h : n.val + 1 < 48 then .v ⟨n.val + 1, h⟩ else .zero
  | .s n => if h : n.val + 1 < 8 then .s ⟨n.val + 1, h⟩ else .zero
  | o => o

/-- The lane whose scale register a lane reads (R196). -/
def scaleLane (l : Nat) : Nat := 32 * (l / 32) + 8 * (l % 32 / 8)

/-- The exact sum of four SHELF8 products. -/
def shelfDot (r : Rnd) (a b : Nat) : Val :=
  (List.range 4).foldl (fun v i => v.add r ((shelf8 (bits a (8 * i) 8)).mul (shelf8 (bits b (8 * i) 8)))) (.fin false 0 0)

/-- The exact sum of the accumulator and the scaled products; a zero takes the sign that one sum of all
five terms has under R219. -/
def dotShOf (r : Rnd) (e a b d : Nat) : Nat :=
  let acc := fp32.decode d
  let sum := (shelfDot r a b).mul (e8 e)
  if acc.isZero && sum.isZero then
    -- each zero product is positive or negative as its factors are
    let negs := (List.range 4).map fun i => ((shelf8 (bits a (8 * i) 8)).mul (shelf8 (bits b (8 * i) 8)))
    let all := acc :: negs
    let same := all.all fun v => v.isZero && v.isNeg == acc.isNeg
    fp32.round r (.fin (if same then acc.isNeg else r == .rd) 0 0)
  else fp32.round r (sum.add r acc)

def execDot4Sh (f : AB) (sel : BitVec 2) (s : State) :=
  s.computeFrom (.dot4Sh f sel) f.z .no [src1 f.a, src1 f.b, boundN f.b 2, src1 f.d, dstP f.d false]
    (fun _ l => [(scaleOpd f.b, scaleLane l)]) fun t =>
    t.result .mul f.d f.n 1 (t.each fun l =>
      let a := t.read false l f.a
      let b := t.read false l f.b
      let d := t.read false l f.d
      let e := t.read false (scaleLane l) (scaleOpd f.b)
      ⟨ofNat64 (dotShOf t.rnd (bits e.val.toNat (8 * sel.toNat) 8) a.val.toNat b.val.toNat d.val.toNat),
        a.taint || b.taint || d.taint || e.taint⟩)

def execDot4I8 (f : AB) (s : State) :=
  s.compute (.dot4I8 f) f.z .no [src1 f.a, src1 f.b, src1 f.d, dstP f.d false] fun t =>
    t.result .mul f.d f.n 1 (t.fun3 false false f.a f.b f.d fun a b d =>
      up ((List.range 4).foldl (fun (v : Word) i =>
        v + (a.extractLsb' (8 * i) 8).signExtend 32 * (b.extractLsb' (8 * i) 8).signExtend 32) (low d)))

/-! Exponents (R230, R231). -/

/-- e(a) of R230. -/
def exponentOf (a : Word) : Word :=
  match f32v a with
  | .nan => 0x7FFFFFFF
  | .inf _ => 0x7FFFFFFF
  | .fin _ m e => if m = 0 then 0x80000000 else BitVec.ofInt 32 (Nat.log2 m + e)

def scaleeOf (r : Rnd) (a b : Word) : Word :=
  match f32v a with
  | .nan => nan32
  | .inf _ => a
  | .fin n m e => if m = 0 then a else f32 r (.fin n m (e + b.toInt))

def execMaxe (f : AB) (s : State) := s.mul32 (.maxe f) f fun a b => smaxOf (exponentOf a) b

def execScalee (f : AB) (s : State) :=
  s.compute (.scalee f) f.z .no [src1 f.a, src1 f.b, dstP f.d false] fun t =>
    t.result .mul f.d f.n 1 (t.fun2 false false f.a f.b fun a b => up (scaleeOf t.rnd (low a) (low b)))

/-! Special functions (R232 to R234). -/

def State.sfu (s : State) (i : Instr) (f : A1) (g : Word → Word) : Host.Outcome State Fault Refusal :=
  s.compute i f.z .no [src1 f.a, dstP f.d false] fun t =>
    t.result .sfu f.d f.n 1 (t.fun1 false f.a fun a => up (g (low a)))

def execRcp (f : A1) (s : State) := s.sfu (.rcp f) f Num.rcp
def execRsq (f : A1) (s : State) := s.sfu (.rsq f) f Num.rsq
def execSqrt (f : A1) (s : State) := s.sfu (.sqrt f) f Num.sqrt
def execEx2 (f : A1) (s : State) := s.sfu (.ex2 f) f Num.ex2
def execLg2 (f : A1) (s : State) := s.sfu (.lg2 f) f Num.lg2
def execSinpi (f : A1) (s : State) := s.sfu (.sinpi f) f (Num.sinCosPi false)
def execCospi (f : A1) (s : State) := s.sfu (.cospi f) f (Num.sinCosPi true)
def execTanh (f : A1) (s : State) := s.sfu (.tanh f) f Num.tanh

end Sys2Proof.Machine
end

