-- ==== Sys2Proof/Machine/Start.lean ====
section
/-! DEFINITION. Teams, sequencers and blocks as they start (Tables 11.1 and 14.1, R365, R367), and the moves of
a team and of a sequencer up to the execution of the word they stand at. -/

namespace Sys2Proof.Machine

/-- A team as it starts (Table 11.1): the seeds say what its registers hold where nothing has written them. -/
def Team.initial (entry : DWord) (size allot prio : Nat) (pers : Bool) (lo hi : Word) (arg : DWord)
    (vSeed uSeed : Option Nat) (cycle : Nat) : Team where
  status := .live
  wait := noWait
  left := noWait
  seqDue := false
  told := false
  second := false
  begun := []
  pc := entry
  words := 0
  advs := []
  advPc := 0
  act := maskOf (List.range size)
  helpers := 0
  size := size
  allot := allot
  v := []
  vSeed := vSeed
  dead := none
  hSeed := none
  u := []
  uSeed := uSeed
  cleanAt := 0
  k := []
  lat := []
  latW := []
  ac := []
  ix := 0
  six := 0
  stack := []
  gathers := []
  addrhi := (entry >>> 32).setWidth 32
  stat := []
  trapen := 0
  cestat := 0
  sgmask := 0
  iter := []
  rangeNext := lo
  rangeEnd := hi
  ticket := lo
  arg := arg
  htoken := 0
  p1 := false
  frame := none
  trapcause := 0
  fpc := 0
  faddr := 0
  flane := 0
  xfault := 0
  xfirst := 0
  xsel := 0
  xcount := 0
  tix := 0
  tsix := 0
  xinvlo := 0
  faults := []
  overflow := []
  ovfHeld := 0
  out := []
  unc := []
  look := 0
  sq := []
  atoms := []
  lockOn := []
  wld := []
  late := []
  pad := none
  bad := []
  upV := []
  upU := []
  failed := []
  colls := []
  seq := 0
  sync := 0
  homeSeen := []
  ldcWide := false
  pend := []
  passOver := 0
  readyAt := cycle
  yielded := false
  prio := prio
  wdogFrom := cycle
  wdogElapsed := 0
  wdogDue := false
  wdog2From := none
  ending := false
  stopReq := false
  saveAll := false
  pers := pers

/-- The matrix sequencer at block start (Table 14.1): ended where the kernel has no stream (R250). DESIGN CHOICE (entry 52): MSQADDR,
which the table does not name, is 0. -/
def Sequencer.initial (ms : Bool) (at_ : DWord) : Sequencer where
  m := []
  sd := []
  lc := []
  loops := []
  wbase := 0
  period := 1
  base := at_
  pc := at_
  pend := []
  engine := none
  last := false
  ended := !ms
  parked := false
  trap := none
  msqaddr := 0

/-- A barrier assignment of the record (Table 18.1). -/
def barOf (w : Word) : Nat × Barrier :=
  let sc := bits w.toNat 6 2
  (bits w.toNat 0 6, ⟨if sc = 1 then .grid else if sc = 2 then .blockSeq else .block, bits w.toNat 8 24, 0, 0⟩)

/-- A block as it starts. -/
def Block.initial (serial launch ctx number nTeams : Nat) (r : KernelRec) (spadSeed accSeed : Option Nat) : Block where
  serial := serial
  launch := launch
  ctx := ctx
  number := number
  nTeams := nTeams
  rec_ := r
  spad := []
  spadSeed := spadSeed
  lineSeed := []
  absent := []
  acc := []
  accSeed := accSeed
  upSp := []
  upAcc := []
  bars := r.bars.foldl (fun m w => PMap.set m (barOf w).1 (barOf w).2) []
  seq := Sequencer.initial r.ms r.mstream
  copies := []
  group := none
  stopping := false
  stopAt := 0
  giveUp := false

/-! The word a team stands at. -/

/-- Whether a team may issue: it is live, no replay holds it (R123), and its datapath is its own, its clause weight met (R369,
R388). A datapath issues one pass a cycle, and the datapaths of a cycle in ascending order (R414). -/
def State.canIssue (s : State) (c t : Nat) : Bool :=
  match s.team? c t with
  | some tm =>
    tm.status == .live && (tm.p1 || !s.replayingAny c t) &&
      decide ((s.core c).slot ≤ 4 * s.cycle + t % 4) &&
      (match PMap.get? (s.core c).dps (t % 4) with
       | some d => d.holder == some t && d.withheld == none
       | none => false)
  | none => false

/-- Matrix-stream words are no words of a team (R57). -/
def isStream (w : Word) : Bool := decide (0x30 ≤ fOp w.toNat) && decide (fOp w.toNat ≤ 0x37)

/-- A team's move up to the execution of a word: the state in which the word executes, or the state the move
ends in (a path's end at a phase boundary, a REFILL that a replay has held and that draws on, a fetch trap, an illegal word). -/
def State.teamWord (s : State) (c t : Nat) : State × Option Instr :=
  if !s.canIssue c t then (s, none)
  else match s.team? c t with
  | none => (s, none)
  | some tm =>
    let s := ({ s with cur := ⟨c, t⟩ } : State).modCore c fun x => { x with slot := 4 * s.cycle + t % 4 + 1 }
    if tm.ending && !tm.p1 then (s.teamEnds c t, none)
    else if tm.left.cause == .range && !tm.p1 then ((s.setTeam c t { tm with left := noWait }).drawGo c t, none)
    else if tm.advs.isEmpty && s.phaseStop c tm == some tm.pc then (s.arriveFrame c t, none)
    else match s.fetch c tm.pc tm.p1 with
    | (s, .error k) => (s.raise c t k, none)
    | (s, .ok w) =>
      if isStream w then (s.raise c t (plainTrap .illegalInstruction), none)
      else match decode w with
      | .error _ => (s.raise c t (plainTrap .illegalInstruction), none)
      | .ok i => (s, some i)

/-! The word a sequencer stands at. -/

/-- A sequencer trap is recorded, with MSQADDR and with the fault address and the XFAULT that the handler reads: the word has
no effect and no later word issues (R276, R277, R116, R398). DESIGN CHOICE (entry 52): an address at or above 2^32 stands modulo
2^32 in MSQADDR and in the fault address. -/
def State.seqTrapAt (s : State) (c : Nat) (cause : Cause) (arg addr faddr : Nat) (xfault : Word) : State :=
  (s.modBlock c fun b =>
    { b with seq := { b.seq with
      trap := some ⟨cause, arg, addr % 2 ^ 32, faddr, xfault, false⟩
      msqaddr := BitVec.ofNat 32 addr, parked := false } }).settle

/-- A trap of a word's own: its fault address is MSQADDR's. -/
def State.seqTrap (s : State) (c : Nat) (cause : Cause) (arg addr : Nat) : State := s.seqTrapAt c cause arg addr (addr % 2 ^ 32) 0

/-- Whether a sequencer may issue its next word. -/
def State.seqReady (s : State) (c : Nat) : Bool :=
  match s.block? c with
  | some b => !b.seq.ended && !b.seq.last && b.seq.trap.isNone && !b.stopping
  | none => false

/-- A sequencer's move up to the execution of a word. A fetch that fails names the word's address as the fault address; MSQADDR
is 0 (R95, Table 14.12). DESIGN CHOICE (entry 76): a word that the sequencer waits at is fetched anew at each look. -/
def State.seqWord (s : State) (c : Nat) : State × Option Instr :=
  if !s.seqReady c then (s, none)
  else match s.block? c with
  | none => (s, none)
  | some b =>
    let s := { s with cur := ⟨c, 0⟩ }
    match s.fetch c b.seq.pc false with
    | (s, .error k) => (s.seqTrapAt c k.cause 0 0 k.addr k.xfault, none)
    | (s, .ok w) =>
      if !isStream w then (s.seqTrap c .illegalInstruction 0 0, none)
      else match decode w with
      | .error _ => (s.seqTrap c .illegalInstruction 0 0, none)
      | .ok i => (s, some i)

/-! Placing one word where the next step runs it. -/

/-- The record of the one-word program of `withFetchWord`: a small ordinary kernel, its code at 0x10000. -/
def wordKernel : KernelRec where
  addr := 0x8000
  rf := false
  ord := false
  pers := false
  ms := true
  entry := 0x10000
  body := 0
  retire := 0
  rend := 0
  mstream := 0x10000
  allot := 64
  size := 4
  part := 0x8620
  bars := []
  safe := []

/-- One word at 0x10000 of context 0, core 0 at work on a block with one team that stands at it, and the move
of that team, or of the sequencer for a matrix-stream word, next (entry 18). -/
def State.placeWord (s : State) (w : Word) : State :=
  let bs := natLe 4 w.toNat
  let s := { s with mem := Memory.writes s.mem ((List.range 4).zip bs |>.map fun (p : Nat × Byte) => (0x10000 + p.1, p.2)) }
  let s := { s with l2 := s.l2.filter fun p => decide (p.1 < 0x10000) || decide (0x10004 ≤ p.1) }
  let leaf : TlbEntry := ⟨0, 0, 0, 2, 1, true, true, true⟩
  let s := s.setCore 0 { Core.initial with lastCtx := some 0, tlb := [leaf], dps := [(0, ⟨some 0, none, 0⟩)], allow := 65535 }
  let s := { s with
    ready := true
    deviceId := some 0
    freeRows := s.freeRows.filter (· != rowKey 0x10000)
    poison := s.poison.filter (· != 0x10000 / 64)
    ctxs := PMap.set s.ctxs 0 ⟨0, 0, 0, 0, 0, 100, 0⟩
    blocks := PMap.set s.blocks 0 (Block.initial 0 0 0 0 1 wordKernel none none)
    cur := ⟨0, 0⟩
    ecc := []
    sched := if isStream w then [.seq 0] else [.team 0 0] }
  s.setTeam 0 0 (Team.initial 0x10000 4 64 0 false 0 0 0 none none s.cycle)

end Sys2Proof.Machine
end

