-- ==== Sys2Proof/Machine/Launch.lean ====
section
/-! DEFINITION. Launches: the packet and the kernel entry record, arming, start, abort and completion, and the
end of a block (R102 to R104, R131, R139, R332, R333, R362 to R364, R405). -/

namespace Sys2Proof.Machine

/-! Status codes (R83). -/

def stOk : Nat := 0
def stRejected : Nat := 1
def stNoCores : Nat := 2
def stStale : Nat := 3
def stAborted : Nat := 4
def stUnsupported : Nat := 5

/-! The launch packet (R362). -/

structure Packet where
  krec : Nat
  arg : DWord
  gen : Word
  part : Word
  shape : Word
  teams : Nat
  prio : Nat
  blocks : Nat
  rbegin : Nat
  rend : Nat
  bars : List Word
  parties : List (Nat × Nat)
  deriving DecidableEq, Repr

/-- A word of a payload, and two words as one number. -/
def wordAt (w : List Word) (i : Nat) : Nat := (w.getD i 0).toNat
def pairAt (w : List Word) (i : Nat) : Nat := wordAt w i + 2 ^ 32 * wordAt w (i + 1)

/-- The packet of a payload, none where Table 19.1 rejects it. -/
def parsePacket (w : List Word) : Option Packet :=
  let ctl := wordAt w 7
  let teams := bits ctl 0 5
  let npart := bits ctl 16 7
  let nbar := wordAt w 11
  let n := 12 + nbar + npart
  let ps := (w.drop (12 + nbar)).take npart
  if decide (w.length < 12) || decide (64 < nbar) || w.length != n + n % 2 || (n % 2 = 1 && wordAt w n != 0) ||
    bits ctl 5 3 != 0 || bits ctl 10 6 != 0 || bits ctl 23 9 != 0 || teams = 0 || decide (16 < teams) ||
    npart = 0 || decide (64 < npart) || wordAt w 8 = 0 || decide (16777215 < wordAt w 8) || decide (wordAt w 10 < wordAt w 9) ||
    ps.any (fun p => bits p.toNat 13 3 != 0 || bits p.toNat 24 8 != 0) then none
  else
    let parties := ps.map fun p => (bits p.toNat 0 13, bits p.toNat 16 8)
    if (parties.map (·.1)).eraseDups.length != npart then none
    else some ⟨pairAt w 0, BitVec.ofNat 64 (pairAt w 2), w.getD 4 0, w.getD 5 0, w.getD 6 0, teams, bits ctl 8 2, wordAt w 8,
      wordAt w 9, wordAt w 10, (w.drop 12).take nbar, parties⟩

/-! The kernel entry record, read by the Harbour (R332, R333, R405). -/

/-- The Harbour's place among the parties that read at home: no core's, so that every held copy is recalled (R317). -/
def harbourPlace : Nat := Config.cores

/-- One byte through a context's tables with the rights of P0, from this device only. -/
def State.recByte (s : State) (ctx va : Nat) : State × Option Byte :=
  if 2 ^ 56 ≤ va then (s, none)
  else
    match s.walk harbourPlace ctx va 4 (s.rootOf ctx) [] with
    | (s, .error _, _) => (s, none)
    | (s, .ok e, _) =>
      match s.leafAccess e va .read false with
      | .error _ => (s, none)
      | .ok pa =>
        match s.route pa with
        | .local_ a =>
          let s := s.homeRead harbourPlace (a / 64)
          if s.poisoned (a / 64) then (s, none) else (s, some (s.homeByte a))
        | _ => (s, none)

def State.recBytes (s : State) (ctx va : Nat) : Nat → State × Option (List Byte)
  | 0 => (s, some [])
  | n + 1 =>
    match s.recByte ctx va with
    | (s, none) => (s, none)
    | (s, some b) =>
      match s.recBytes ctx (va + 1) n with
      | (s, none) => (s, none)
      | (s, some l) => (s, some (b :: l))

def State.recWords (s : State) (ctx va n : Nat) : State × Option (List Word) :=
  match s.recBytes ctx va (4 * n) with
  | (s, some l) => (s, some (leWords l))
  | (s, none) => (s, none)

/-- A signed byte offset from the record's address. -/
def recAddr (krec : Nat) (w : Word) : DWord := BitVec.ofNat 64 krec + w.signExtend 64

/-- Nine words as one safe-point entry: its address and its live mask. -/
def safeEntries (krec : Nat) : Nat → List Word → List (DWord × List Word)
  | 0, _ => []
  | n + 1, ws => (recAddr krec (ws.getD 0 0), (ws.drop 1).take 8) :: safeEntries krec n (ws.drop 9)

/-- Whether a live mask names only registers below the allotment. -/
def liveOk (allot : Nat) (m : List Word) : Bool :=
  (List.range 256).all fun i => decide (i < allot) || !bit (m.getD (i / 32) 0).toNat (i % 32)

/-- The fields of Table 18.1 and R405 that are rejected. -/
def recordBad (krec : Nat) (h bars safe : List Word) (nsafe : Nat) : Bool :=
  let fl := wordAt h 0
  let rf := bit fl 0
  let ms := bit fl 3
  let off (i : Nat) : Int := (h.getD i 0).toInt
  let shape := wordAt h 6
  let part := wordAt h 7
  let allot := bits shape 0 9
  let size := bits shape 16 11
  let entries := safeEntries krec nsafe safe
  decide (16 ≤ fl) || (bit fl 1 && !rf) || off 1 % 4 != 0 ||
  (ms && off 5 % 4 != 0) || (!ms && off 5 != 0) ||
  (rf && (!(decide (off 1 < off 2) && decide (off 2 < off 3) && decide (off 3 < off 4)) ||
    off 2 % 4 != 0 || off 3 % 4 != 0 || off 4 % 4 != 0)) ||
  decide (allot < 8) || decide (256 < allot) || allot % 8 != 0 || bits shape 9 7 != 0 || size = 0 || decide (1024 < size) ||
  bits shape 27 5 != 0 ||
  decide (bits part 0 6 < 8) || bits part 0 6 + bits part 6 6 + bits part 12 6 != 64 ||
  bars.any (fun b => bits b.toNat 6 2 == 3 || (bits b.toNat 6 2 == 2 && !ms) || bits b.toNat 8 24 == 0) ||
  (bars.map fun b => bits b.toNat 0 6).eraseDups.length != bars.length ||
  (List.range nsafe).any (fun i => wordAt safe (9 * i) % 4 != 0) ||
  (entries.map (·.1)).eraseDups.length != nsafe || entries.any fun e => !liveOk allot e.2

/-- The record of some words. -/
def recordOf (krec : Nat) (h bars safe : List Word) (nsafe : Nat) : Option KernelRec :=
  if recordBad krec h bars safe nsafe then none
  else
    let fl := wordAt h 0
    let at_ (i : Nat) : DWord := recAddr krec (h.getD i 0)
    let shape := wordAt h 6
    some {
      addr := BitVec.ofNat 64 krec, rf := bit fl 0, ord := bit fl 1, pers := bit fl 2, ms := bit fl 3
      entry := at_ 1, body := at_ 2, retire := at_ 3, rend := at_ 4, mstream := at_ 5
      allot := bits shape 0 9, size := bits shape 16 11, part := h.getD 7 0
      bars := bars, safe := safeEntries krec nsafe safe }

/-- The record at an address, with its SHAPE word; none where it is rejected. -/
def State.readRecord (s : State) (ctx krec : Nat) : State × Option (KernelRec × Word) :=
  if krec % 16 ≠ 0 then (s, none)
  else match s.recWords ctx krec 9 with
  | (s, none) => (s, none)
  | (s, some h) =>
    let nbar := wordAt h 8
    if 64 < nbar then (s, none)
    else match s.recWords ctx (krec + 36) (nbar + 1) with
    | (s, none) => (s, none)
    | (s, some r) =>
      let nsafe := wordAt r nbar
      if 4095 < nsafe then (s, none)
      else match s.recWords ctx (krec + 40 + 4 * nbar) (9 * nsafe) with
      | (s, none) => (s, none)
      | (s, some safe) => (s, (recordOf krec h (r.take nbar) safe nsafe).map fun k => (k, h.getD 6 0))

/-- The packet agrees with the record (R333); reserved bits of the partition word do not count (R7). -/
def Packet.agrees (p : Packet) (k : KernelRec) (shape : Word) : Bool :=
  p.shape == shape && bits p.part.toNat 0 18 == bits k.part.toNat 0 18 && p.bars == k.bars

/-- The capacity check (R131). -/
def capacityOk (teams : Nat) (k : KernelRec) : Bool :=
  decide (teams * ((k.size + 31) / 32) * 32 * (k.allot + 16) * 4 ≤ bits k.part.toNat 0 6 * Config.bankBytes)

/-! Arming (R103, R104). -/

/-- A generation is stale (R103). -/
def staleGen (gen last : Word) : Bool := gen == last || decide (2 ^ 31 ≤ (gen - last).toNat)

def State.armedIn (s : State) (ctx : Nat) : Bool := s.launches.any fun p => p.2.ctx == ctx && p.2.started.isNone

/-- What the checks of R104 step 1 say. -/
inductive Vet where
  | arm (l : Launch)
  | refuse (status : Nat)
  | wait
  deriving DecidableEq, Repr

/-- The checks of a packet on this device, in R104's order; a newer packet waits for an armed launch (R103). -/
def State.vet (s : State) (p : Packet) (ctx rank sess : Nat) (hdr : Hdr) : State × Vet :=
  match PMap.get? s.ctxs ctx with
  | none => (s, .refuse stRejected)
  | some k =>
    if !(List.range Config.cores).any fun c => s.allotted c ctx then (s, .refuse stNoCores)
    else if staleGen p.gen k.lastGen then (s, .refuse stStale)
    else if s.armedIn ctx then (s, .wait)
    else match s.readRecord ctx p.krec with
    | (s, none) => (s, .refuse stRejected)
    | (s, some (r, shape)) =>
      if !p.agrees r shape || !capacityOk p.teams r then (s, .refuse stRejected)
      else (s, .arm {
        ctx := ctx, gen := p.gen, rank := rank, parties := p.parties, sess := sess, hdr := hdr, rec_ := r, arg := p.arg
        teams := p.teams, prio := p.prio, blocks := p.blocks, rbegin := p.rbegin, rend := p.rend
        armedBy := if rank = 0 then [0] else [], started := none, waiting := [], live := 0, killed := 0, endedBy := []
        killedAll := 0, dead := false, armedAt := s.cycle })

/-- A key no launch has. -/
def State.newLaunch (s : State) : Nat := (s.launches.map (·.1)).foldl max 0 + 1

/-- The launch armed, its GRID barriers with nothing arrived (R373). -/
def State.armLaunch (s : State) (l : Launch) : State :=
  let key := s.newLaunch
  let grid := (l.rec_.bars.filter fun b => bits b.toNat 6 2 == 1).foldl
    (fun (m : PMap Barrier) b => PMap.set m (gridKey key (barOf b).1) (barOf b).2) s.grid
  { s with launches := PMap.set s.launches key l, grid := grid }

/-- The launch and what belongs to it forgotten. -/
def State.dropLaunch (s : State) (key : Nat) : State :=
  { s with
    launches := PMap.del s.launches key
    grid := s.grid.filter fun p => p.1 / 64 != key
    tasks := s.tasks.filter (·.launch != key)
    cores := s.cores.map fun (p : Nat × Core) => (p.1, { p.2 with tasks := p.2.tasks.filter (·.launch != key) }) }

/-! Replies (R81, R83, R85). -/

/-- A reply, sent and kept among the session's last 256. -/
def State.putReply (s : State) (sess : Nat) (h : Hdr) (status : Nat) (data : List Word) : State :=
  match PMap.get? s.sessions sess with
  | none => s
  | some x =>
    let ws : List Word := BitVec.ofNat 32 status :: 0 :: data
    let h := { h with len := BitVec.ofNat 16 (4 * ws.length) }
    let all := x.replies ++ [(h, ws)]
    { s with
      sessions := PMap.set s.sessions sess { x with replies := all.drop (all.length - Config.storedReplies) }
      outbox := s.outbox ++ [.reply sess h ws] }

/-! Completion (R363). -/

/-- The completion report, once every participant has ended. -/
def State.reportDone (s : State) (key : Nat) (l : Launch) : State :=
  let s := if l.dead then s else
    s.send (.report l.sess 1 l.hdr.ctx.toNat l.hdr.seq l.hdr.tag [0, 2, l.gen, BitVec.ofNat 32 (l.killed + l.killedAll)])
  s.dropLaunch key

def Launch.allEnded (l : Launch) : Bool := (List.range l.parties.length).all l.endedBy.contains

/-- A launch with no block left on this device has ended here. -/
def State.launchDone (s : State) (key : Nat) : State :=
  match PMap.get? s.launches key with
  | none => s
  | some l =>
    if l.started.isNone || !l.waiting.isEmpty || l.live != 0 then s
    else if l.rank = 0 then
      let l := { l with endedBy := if l.endedBy.contains 0 then l.endedBy else 0 :: l.endedBy }
      let s := { s with launches := PMap.set s.launches key l }
      if l.allEnded then s.reportDone key l else s
    else
      let root := l.parties.headD (0, 0)
      (s.send (.endMsg root.1 root.2 l.gen l.killed)).dropLaunch key

/-! Start and abort (R104, R364). -/

/-- Blocks of a rank (R364). -/
def Launch.ownBlocks (l : Launch) : List Nat :=
  let n := l.parties.length
  let lo := l.rank * l.blocks / n
  let hi := (l.rank + 1) * l.blocks / n
  (List.range (hi - lo)).map (lo + ·)

/-- START on this device: LASTGEN, and the blocks wait for dispatch. -/
def State.startHere (s : State) (key : Nat) : State :=
  match PMap.get? s.launches key with
  | none => s
  | some l =>
    let order := (s.launches.map fun p => (p.2.started.getD 0)).foldl max 0 + 1
    let s := { s with
      ctxs := PMap.modify s.ctxs l.ctx fun k => { k with lastGen := l.gen }
      launches := PMap.set s.launches key { l with started := some order, waiting := l.ownBlocks } }
    s.launchDone key

/-- The root sends START once every participant has armed, and answers the LAUNCH. -/
def State.tryStart (s : State) (key : Nat) : State :=
  match PMap.get? s.launches key with
  | none => s
  | some l =>
    if l.started.isSome || !(List.range l.parties.length).all l.armedBy.contains then s
    else
      let s := l.others.foldl (fun s p => s.send (.start p.1 p.2 l.gen)) s
      (s.putReply l.sess l.hdr stOk []).startHere key

/-- The root aborts: ABORT to the others, and the mask of the ranks that did not arm (R104). -/
def State.abortLaunch (s : State) (key : Nat) (lost : List Nat) : State :=
  match PMap.get? s.launches key with
  | none => s
  | some l =>
    let mask := (List.range l.parties.length).foldl (fun m k => if l.armedBy.contains k && !lost.contains k then m else m + 2 ^ k) 0
    let s := l.others.foldl (fun s p => s.send (.abort p.1 p.2 l.gen)) s
    (s.putReply l.sess l.hdr stAborted [BitVec.ofNat 32 mask, BitVec.ofNat 32 (mask / 2 ^ 32)]).dropLaunch key

/-- START_TIMEOUT has passed since a launch armed at its root: what comes later finds it as good as aborted (R104,
DEDUCED, entry 54). -/
def State.startDue (s : State) (l : Launch) : Bool := decide (l.armedAt + s.startTimeout * Config.cyclesPerMs ≤ s.cycle)

/-- An armed launch of a context lost by a partition change or a context kill on this device (R104). DESIGN CHOICE (entry 54):
a partition change aborts the armed launches of the contexts that its old and its new entry name, and of no other context. -/
def State.loseArmed (s : State) (ctx : Nat) : State :=
  match s.launches.find? fun p => p.2.ctx == ctx && p.2.started.isNone with
  | none => s
  | some (key, l) =>
    if l.rank = 0 then s.abortLaunch key (if s.startDue l then [] else [0])
    else
      let root := l.parties.headD (0, 0)
      (s.send (.refusal root.1 root.2 l.gen stRejected)).dropLaunch key

/-! The end of a block (R139, R251, R278, R411). -/

/-- The trace of a block that leaves its core written as far as it can be, and off: packets that are not in the ring by now, as
where a kill leaves writes unanswered, are lost and counted (DESIGN CHOICE, entry 49). What its requests still on their way meet
is no later block's. -/
def State.closeTrace (s : State) (c : Nat) : State :=
  let s := s.traceAll c
  let s := (if (s.core c).trace.on then (s.modTrace c Trace.giveUp).storeStale c else s).modTrace c fun tr =>
    { tr with on := false, buf := [], lostNow := 0, lostDue := false, waits := 0, bad := false, stale := false, pcbase := [] }
  { s with remote := s.remote.map fun (r : RemoteReq) =>
      { r with what := match r.what with | .trace c' live ptr => .trace c' (live && c' != c) ptr | x => x } }

/-- The requests to Longshore whose donor is a team of a core asked again: its block leaves (R358). -/
def State.dropDonor (s : State) (c : Nat) : State :=
  s.cores.foldl (fun (s : State) p => match p.2.shore with
    | .donor k => if k / 16 = c then s.shoreAgain p.1 else s
    | _ => s) s

/-- The block leaves its core: it leaves its group, its trace is written, the range tasks left to it return to the Harbour,
and no team of its is a donor any more. -/
def State.offCore (s : State) (c : Nat) (b : Block) : State :=
  let s := ((s.revokeSlot c).leaveGroup c).closeTrace c
  let s := s.dropDonor c
  let mine := ((s.core c).tasks).filter (·.launch == b.launch)
  let s := s.modCore c fun x => { x with tasks := x.tasks.filter (·.launch != b.launch), dps := [], shore := .idle }
  { s with
    blocks := PMap.del s.blocks c
    teams := s.teams.filter fun p => p.1 / 16 != c
    shoreQ := s.shoreQ.map fun (p : Nat × List Nat) => (p.1, p.2.filter (· != c))
    xinvs := s.xinvs.filter (·.core != c)
    tasks := s.tasks ++ mine }

/-- The block has left its core for good: its launch counts it as ended. -/
def State.blockOff (s : State) (c : Nat) : State :=
  match s.block? c with
  | none => s
  | some b =>
    let s := s.offCore c b
    ({ s with launches := PMap.modify s.launches b.launch fun l => { l with live := l.live - 1 } } : State).launchDone b.launch

/-- The teams of a block that have neither exited nor been killed. -/
def State.liveTeams (s : State) (c : Nat) : List Nat :=
  (List.range 16).filter fun t => match s.team? c t with
    | some tm => tm.status != .exited && tm.status != .killed
    | none => false

/-- A block killed with its context: its teams count as killed, without reports (R363, R411). -/
def State.killBlock (s : State) (c : Nat) : State :=
  match s.block? c with
  | none => s
  | some b =>
    ((s.liveTeams c).foldl (fun s t => (s.endTeam c t .killed).countKilled b.launch) s).blockOff c

/-- Every block of a context ended, resident, saved or waiting, with its range tasks; its armed launches are
lost. -/
def State.killCtx (s : State) (ctx : Nat) : State :=
  let s := s.loseArmed ctx
  let s := { s with launches := s.launches.map fun (p : Nat × Launch) =>
    (p.1, if p.2.ctx = ctx then { p.2 with waiting := [], dead := p.2.dead || p.2.rank == 0 } else p.2) }
  let mine := s.saved.filter (·.block.ctx == ctx)
  let s := { s with saved := s.saved.filter (·.block.ctx != ctx) }
  let s := mine.foldl (fun s k =>
    let n := (k.teams.filter fun p => p.2.status != .exited && p.2.status != .killed).length
    { s with launches := PMap.modify s.launches k.block.launch fun l => { l with live := l.live - 1, killed := l.killed + n } }) s
  let s := (s.blocks.filter fun p => p.2.ctx == ctx).foldl (fun s p => s.killBlock p.1) s
  let s := { s with
    tasks := s.tasks.filter fun (k : RangeTask) => ((PMap.get? s.launches k.launch).map fun (l : Launch) => l.ctx) != some ctx }
  (s.launches.filter fun p => p.2.ctx == ctx).foldl (fun s p => s.launchDone p.1) s

/-! A LAUNCH at the root, and a packet at another participant. -/

/-- How a command ends: answered, performed with its reply to come, or not yet performed. -/
inductive CmdOut where
  | reply (status : Nat) (data : List Word)
  | later
  | hold
  deriving DecidableEq, Repr

/-- The words of a command's payload, LEN bytes of them. -/
def cmdWords (c : Cmd) : List Word :=
  let n := c.hdr.len.toNat / 4
  (c.pay ++ List.replicate (n - c.pay.length) 0).take n

/-- LAUNCH at the root (R102, R104). -/
def State.launchRoot (s : State) (c : Cmd) : State × CmdOut :=
  match parsePacket (cmdWords c) with
  | none => (s, .reply stRejected [])
  | some p =>
    let own := p.parties.headD (0, 0)
    if s.deviceId != some own.1 || own.2 != c.hdr.ctx.toNat then (s, .reply stRejected [])
    else match s.vet p own.2 0 c.sess c.hdr with
    | (s, .refuse st) => (s, .reply st [])
    | (s, .wait) => ({ s with armWait := s.armWait ++ [.launch c] }, .hold)
    | (s, .arm l) =>
      let key := s.newLaunch
      let s := s.armLaunch l
      let s := l.others.foldl (fun s q => s.send (.forward q.1 (cmdWords c))) s
      (s.tryStart key, .later)

/-- A forwarded packet (R104). -/
def State.launchPart (s : State) (root : Nat) (packet : List Word) : State :=
  match parsePacket packet, s.deviceId with
  | some p, some id =>
    match ((List.range p.parties.length).zip p.parties).find? fun x => x.2.1 == id with
    | none => s
    | some (rank, own) =>
      let rc := (p.parties.headD (0, 0)).2
      if rank = 0 then s
      else match s.vet p own.2 rank 0 ⟨0, 0, 0, 0, 0⟩ with
      | (s, .refuse st) => s.send (.refusal root rc p.gen st)
      | (s, .wait) => { s with armWait := s.armWait ++ [.launchForward root packet] }
      | (s, .arm l) => (s.armLaunch l).send (.armed root rc p.gen)
  | _, _ => s

/-- The rank of a device in a launch. -/
def Launch.rankOf (l : Launch) (dev : Nat) : Option Nat :=
  (List.range l.parties.length).find? fun k => (l.parties.getD k (0, 0)).1 == dev && (l.parties[k]?).isSome

/-- The armed launch of a context and a generation, of which this device is the root or not: one of a context destroyed
since, which has started, is none (R103, R104). -/
def State.armedLaunch (s : State) (root : Bool) (ctx : Nat) (gen : Word) : Option (Nat × Launch) :=
  s.launches.find? fun p => (p.2.rank == 0) == root && p.2.started.isNone && p.2.ctx == ctx && p.2.gen == gen

/-- A participant's end is still to come. -/
def Launch.awaits (l : Launch) (dev : Nat) : Bool :=
  match l.rankOf dev with
  | some k => k != 0 && !l.endedBy.contains k
  | none => false

/-- The started launch of this root that awaits a device's messages (R363). -/
def State.runLaunch (s : State) (ctx dev : Nat) (gen : Word) : Option (Nat × Launch) :=
  s.launches.find? fun p => p.2.rank == 0 && p.2.started.isSome && p.2.ctx == ctx && p.2.gen == gen && p.2.awaits dev

end Sys2Proof.Machine
end

