-- ==== Sys2Proof/Machine/Harbour.lean ====
section
/-! DEFINITION. The Harbour's commands: the front that every command passes, and what each does (R79 to R93,
R105). -/

namespace Sys2Proof.Machine

/-! Commands of one word of effect. -/

def rejected : CmdOut := .reply stRejected []

/-- A payload word is zero. -/
def zeroAt (w : List Word) (i : Nat) : Bool := wordAt w i == 0

/-- The core's clearing (R38): its next block finds its pool zero. -/
def State.clearCore (s : State) (c : Nat) : State :=
  s.modCore c fun x =>
    { x with
      lastCtx := none, l1 := [], tlb := [], pred := []
      trace := { x.trace with wrptr := 0, buf := [], pcbase := [], lostNow := 0 } }

/-- A block asked to stop at its safe points (R406). -/
def State.askStop (s : State) (c : Nat) (giveUp : Bool) : State :=
  let s := s.modBlock c fun b => { b with
    stopping := true, stopAt := if b.stopping then b.stopAt else s.cycle, giveUp := b.giveUp || giveUp }
  (s.liveTeams c).foldl (fun s t => s.modTeam c t fun tm => { tm with stopReq := true }) s

def State.partEntry (s : State) (core : Nat) : BitVec 16 := (PMap.get? s.part core).getD 0

/-- The contexts with V = 1 of some entries. -/
def entryCtxs (es : List (BitVec 16)) : List Nat := (es.filterMap fun e => if e.getLsbD 15 then some (e.toNat % 256) else none).eraseDups

/-- PART_WRITE (R37, R86). -/
def State.cmdPartWrite (s : State) (c : Cmd) (w : List Word) : State × CmdOut :=
  let core := bits (wordAt w 0) 0 8
  let e : BitVec 16 := BitVec.ofNat 16 (bits (wordAt w 1) 0 16) &&& 0x80FF
  if wordAt w 0 ≥ 256 || wordAt w 1 ≥ 65536 || core ≥ Config.cores then (s, rejected)
  else if e.getLsbD 15 && !PMap.has s.ctxs (e.toNat % 256) then (s, rejected)
  else
    let e := if (s.core core).withdrawn then e &&& 0x00FF else e
    let old := s.partEntry core
    let s := if old = e then s else (entryCtxs [old, e]).foldl (fun s x => s.loseArmed x) s
    let s := { s with part := PMap.set s.part core e }
    let taken := match s.block? core with
      | some b => !(e.getLsbD 15 && e.toNat % 256 == b.ctx)
      | none => false
    if taken then ({ s.askStop core true with partPend := s.partPend ++ [⟨c, core, e⟩] }, .hold)
    else if s.partPend.any (·.core == core) then ({ s with partPend := s.partPend ++ [⟨c, core, e⟩] }, .hold)
    else (s, .reply stOk [])

/-- 16-bit entries as words, padded to a multiple of 8 bytes. -/
def packEntries : List (BitVec 16) → List Word
  | [] => []
  | [a] => [a.setWidth 32, 0]
  | [a, b] => [b ++ a, 0]
  | [a, b, x] => [b ++ a, x.setWidth 32]
  | a :: b :: x :: y :: r => (b ++ a) :: (y ++ x) :: packEntries r

/-- PART_READ. -/
def State.cmdPartRead (s : State) (w : List Word) : CmdOut :=
  let first := bits (wordAt w 0) 0 8
  let n := bits (wordAt w 0) 8 8
  if wordAt w 0 ≥ 65536 || !zeroAt w 1 || n = 0 || n > 192 || first + n > 192 then rejected
  else .reply stOk (packEntries ((List.range n).map fun i => s.partEntry (first + i)))

/-! Free rows (R71, R72, R87). -/

/-- The row-banks of a granule range, in every stack. -/
def inGranules (first n key : Nat) : Bool := decide (first ≤ key % 2 ^ 21) && decide (key % 2 ^ 21 < first + n)
def paInGranules (first n pa : Nat) : Bool := decide (first ≤ rbOf pa) && decide (rbOf pa < first + n)

/-- Granules declared free: no cache keeps anything of them, and nothing of them is kept in the rows. -/
def State.freeSet (s : State) (first n : Nat) : State :=
  let off (pa : Nat) : Bool := !paInGranules first n pa
  let keys := (List.range 8).flatMap fun k => (List.range n).map fun i => k * 2 ^ 21 + (first + i)
  State.hbmPump { s with
    freeRows := keys ++ s.freeRows.filter fun k => !inGranules first n k
    l2 := s.l2.filter fun p => off p.1
    l2Lines := s.l2Lines.map fun (p : Nat × List L2Line) => (p.1, p.2.filter fun x => off (128 * x.line))
    l2Whole := s.l2Whole.filter fun x => off (64 * x)
    hbmReqs := s.hbmReqs.filter fun r => off (64 * r.sector)
    hbmWait := s.hbmWait.filter fun r => off (64 * r.sector)
    cores := s.cores.map fun (p : Nat × Core) => (p.1,
      (p.2.held.filter fun x => !off (128 * x.1)).foldl (fun (x : Core) h => x.recall h.1 s.cycle)
        { p.2 with l1 := p.2.l1.filter fun x => off (64 * x.1) }) }

/-- Rows whose bit is set zeroed, and the bits cleared. -/
def State.freeClear (s : State) (first n : Nat) : State :=
  let hit (pa : Nat) : Bool := paInGranules first n pa && s.freeRows.contains (rowKey pa)
  { s with
    mem := s.mem.filter fun p => !hit p.1
    poison := s.poison.filter fun x => !hit (64 * x)
    freeRows := s.freeRows.filter fun k => !inGranules first n k }

/-- FREE_ROWS: the reply follows when all eight stacks have applied it. DESIGN CHOICE (entry 53): a COUNT of 0 is REJECTED. -/
def State.cmdFreeRows (s : State) (c : Cmd) (w : List Word) : State × CmdOut :=
  let first := wordAt w 0
  let n := wordAt w 1
  if wordAt w 2 ≥ 2 || !zeroAt w 3 || first ≥ Config.granules || n = 0 || first + n > Config.granules then (s, rejected)
  else
    let s := if bit (wordAt w 2) 0 then s.freeSet first n else s.freeClear first n
    ({ s with freePend := s.freePend ++ [c] }, .hold)

/-! Error records (R76, R88). -/

/-- A record as Table 4.4 lays it out. -/
def ErrRec.words (r : ErrRec) : List Word :=
  let pa := 64 * r.sector
  let sa := bits pa 14 26 * 2 ^ 11 + bits pa 0 11
  let rb := bits sa 16 21
  let x := r.stack + 2 ^ 3 * bits sa 10 5 + 2 ^ 8 * bits sa 15 1 + 2 ^ 9 * (rb % 48) + 2 ^ 15 * (rb / 48) +
    2 ^ 30 * bits sa 7 3 + 2 ^ 33 * r.kind + 2 ^ 64 * min r.count 0xFFFF + 2 ^ 96 * (r.time % 2 ^ 32)
  (List.range 4).map fun i => BitVec.ofNat 32 (x / 2 ^ (32 * i))

/-- ERROR_READ. DESIGN CHOICE (entry 53): a FIRST above 1,023 is REJECTED. -/
def State.cmdErrorRead (s : State) (w : List Word) : CmdOut :=
  if wordAt w 0 ≥ 8 || wordAt w 1 > 1023 then rejected
  else
    let l := (PMap.get? s.hbmRecs (wordAt w 0)).getD []
    let some_ := (l.drop (wordAt w 1)).take 32
    .reply stOk ([BitVec.ofNat 32 l.length, BitVec.ofNat 32 some_.length] ++ some_.flatMap ErrRec.words)

/-! The export table (R89, R96). -/

/-- EXPORT_WRITE: reserved bits are not kept. -/
def State.cmdExportWrite (s : State) (w : List Word) : State × CmdOut :=
  if wordAt w 0 ≥ 1024 || !zeroAt w 1 then (s, rejected)
  else
    let e : DWord := BitVec.ofNat 64 (pairAt w 2) &&& 0xC7FFFFFFFFFFFFFF
    ({ s with exports := PMap.set s.exports (wordAt w 0) e }, .reply stOk [])

/-- EXPORT_READ. DESIGN CHOICE (entry 53): a COUNT of 0, or above 64, is REJECTED. -/
def State.cmdExportRead (s : State) (w : List Word) : CmdOut :=
  let first := wordAt w 0
  let n := wordAt w 1
  if first ≥ 1024 || n = 0 || n > 64 || first + n > 1024 then rejected
  else
    .reply stOk ((List.range n).flatMap fun i =>
      let e := (PMap.get? s.exports (first + i)).getD 0
      [e.setWidth 32, (e >>> 32).setWidth 32])

/-! Reduction groups (R90, R105). -/

/-- GROUP_CREATE: the registration with the switches begins. -/
def State.cmdGroupCreate (s : State) (c : Cmd) (w : List Word) : State × CmdOut :=
  let a := wordAt w 0
  let b := wordAt w 1
  let group := bits a 0 12
  let ty := bits a 12 2
  let index := bits a 16 6
  let members := bits b 0 7
  let count := bits b 16 11
  if bits a 14 2 != 0 || bits a 22 10 != 0 || bits b 7 9 != 0 || bits b 27 5 != 0 || !zeroAt w 2 || !zeroAt w 3 then (s, rejected)
  else if ty = 3 || members = 0 || members > 64 || index ≥ members || count = 0 || count > (if ty = 1 then 512 else 1024) ||
    PMap.has s.groups group || !PMap.has s.ctxs c.hdr.ctx.toNat then (s, rejected)
  else
    let g : RedGroup := ⟨c.hdr.ctx.toNat, ty, index, members, count, 0, false, c⟩
    (({ s with groups := PMap.set s.groups group g } : State).send (.groupRegister group), .hold)

/-- Every COLL in flight on a group ends without a record of the switches (R90, R323). -/
def State.endColls (s : State) (group : Nat) : State :=
  s.teams.foldl (fun s p => (p.2.colls.filter (·.group == group)).foldl (fun s k =>
    s.collDone (p.1 / 16) (p.1 % 16) k.id none (2 ^ 64 - 1)) s) s

/-- GROUP_DESTROY. -/
def State.cmdGroupDestroy (s : State) (c : Cmd) (w : List Word) : State × CmdOut :=
  let group := wordAt w 0
  if group ≥ 4096 || !zeroAt w 1 then (s, rejected)
  else match PMap.get? s.groups group with
    | some g =>
      if g.ready && g.ctx = c.hdr.ctx.toNat then
        ((({ s with groups := PMap.del s.groups group } : State).send (.groupWithdraw group)).endColls group, .reply stOk [])
      else (s, rejected)
    | none => (s, rejected)

/-! Configuration (R79, R91). -/

/-- CONFIG_WRITE. -/
def State.cmdConfigWrite (s : State) (w : List Word) : State × CmdOut :=
  let v := wordAt w 1
  if wordAt w 0 ≥ 256 then (s, rejected)
  else match wordAt w 0 with
    | 0 => if v > 4607 || !s.ctxs.isEmpty then (s, rejected) else ({ s with deviceId := some v }, .reply stOk [])
    | 1 => if v = 0 || v > 65535 then (s, rejected) else ({ s with remoteTimeout := v }, .reply stOk [])
    | 2 => if v = 0 || v > 65535 then (s, rejected) else ({ s with startTimeout := v }, .reply stOk [])
    | 3 => if v = 0 || v > 65535 then (s, rejected) else ({ s with groupTimeout := v }, .reply stOk [])
    | _ => (s, .reply stUnsupported [])

/-- CONFIG_READ. -/
def State.cmdConfigRead (s : State) (w : List Word) : CmdOut :=
  let ok (v : Nat) : CmdOut := .reply stOk [BitVec.ofNat 32 v, 0]
  if wordAt w 0 ≥ 256 || !zeroAt w 1 then rejected
  else match wordAt w 0 with
    | 0 => ok (s.deviceId.getD 0xFFFFFFFF)
    | 1 => ok s.remoteTimeout
    | 2 => ok s.startTimeout
    | 3 => ok s.groupTimeout
    | _ => .reply stUnsupported []

/-! Contexts (R92, R93). -/

/-- CTX_CREATE. -/
def State.cmdCtxCreate (s : State) (c : Cmd) (w : List Word) : State × CmdOut :=
  let ctx := c.hdr.ctx.toNat
  let troot := pairAt w 0
  let tvec := pairAt w 2
  let trace := pairAt w 4
  let base := pairAt w 6
  let slots := wordAt w 8
  let wdog := wordAt w 9
  if !zeroAt w 10 || !zeroAt w 11 || PMap.has s.ctxs ctx || troot % 8192 != 0 || decide (troot > 0x8FFFFFE000) ||
    decide (2 ^ 56 ≤ tvec) || tvec % 4 != 0 || trace % 32 != 0 || decide (2 ^ 56 ≤ trace) || base % 65536 != 0 || slots = 0 ||
    decide (slots > 192) || decide (base + slots * Config.saveSlotBytes > Config.maxPA + 1) || decide (wdog > 10000) then (s, rejected)
  else
    let k : Ctx := ⟨BitVec.ofNat 64 troot, BitVec.ofNat 64 tvec, BitVec.ofNat 64 trace, BitVec.ofNat 64 base, slots,
      if wdog = 0 then 100 else wdog, 0⟩
    ({ s with ctxs := PMap.set s.ctxs ctx k }, .reply stOk [])

/-- Everything a context has on this device removed (R93), its blocks apart: a core whose entry named it, or which ran it last,
is cleared before its next block (R38). -/
def State.forgetCtx (s : State) (ctx : Nat) : State :=
  let gone := s.groups.filter fun p => p.2.ctx == ctx
  let s := gone.foldl (fun s p => s.send (.groupWithdraw p.1)) s
  let named (c : Nat) : Bool := match PMap.get? s.part c with
    | some e => e.getLsbD 15 && e.toNat % 256 == ctx
    | none => false
  { s with
    groups := s.groups.filter fun p => p.2.ctx != ctx
    part := s.part.map fun (p : Nat × BitVec 16) => (p.1, if p.2.getLsbD 15 && p.2.toNat % 256 == ctx then p.2 &&& 0x00FF else p.2)
    cores := s.cores.map fun (p : Nat × Core) => (p.1, { p.2 with
      lastCtx := if p.2.lastCtx = some ctx || named p.1 then none else p.2.lastCtx
      tlb := p.2.tlb.filter (·.ctx != ctx) })
    l2tlb := s.l2tlb.map fun (p : Nat × List TlbEntry) => (p.1, p.2.filter (·.ctx != ctx))
    ptrs := s.ptrs.map fun (p : Nat × List PtrEntry) => (p.1, p.2.filter (·.ctx != ctx))
    walks := s.walks.filter (·.ctx != ctx)
    xinvs := s.xinvs.filter (·.ctx != ctx)
    ctxs := PMap.del s.ctxs ctx }

/-- The session's command has been performed: the next one's turn has come. -/
def State.performed (s : State) (sess : Nat) : State :=
  { s with sessions := PMap.modify s.sessions sess fun x => { x with next := (x.next + 1) % 2 ^ 32, busy := false } }

/-- A command that waited is answered. -/
def State.complete (s : State) (c : Cmd) (status : Nat) : State := (s.putReply c.sess c.hdr status []).performed c.sess

/-- CTX_DESTROY. -/
def State.cmdCtxDestroy (s : State) (c : Cmd) (w : List Word) : State × CmdOut :=
  let ctx := c.hdr.ctx.toNat
  if !zeroAt w 0 || !zeroAt w 1 || !PMap.has s.ctxs ctx then (s, rejected)
  else
    let waiting := (s.groups.filter fun p => p.2.ctx == ctx && !p.2.ready).map fun (p : Nat × RedGroup) => p.2.cmd
    let s := (s.killCtx ctx).forgetCtx ctx
    (waiting.foldl (fun s k => s.complete k stRejected) s, .reply stOk [])

/-! The front (R80 to R85). -/

/-- A command marked "device", and one that acts on the context it names (Table 5.4). -/
def deviceCmd (opc : Nat) : Bool := opc != 1 && opc != 8 && opc != 9
def namesCtx (opc : Nat) : Bool := !deviceCmd opc || opc = 12 || opc = 13

/-- Payload bytes (Table 5.12); the LAUNCH's length is its packet's own. -/
def cmdLen (opc len : Nat) : Nat :=
  match opc with
  | 1 => len
  | 4 | 6 | 8 => 16
  | 12 => 48
  | _ => 8

def grantNames (g : Grant) (ctx : Nat) : Bool := g.allCtx || g.ctxs.contains ctx

/-- The STATUS of the first condition that turns a command away before its own rule is asked (R85). -/
def turnedAway (g : Grant) (h : Hdr) : Option Nat :=
  let opc := h.opc.toNat
  if opc = 0 || opc > 13 then some stUnsupported
  else if h.len.toNat % 8 != 0 || (if namesCtx opc then !grantNames g h.ctx.toNat else h.ctx != 0) then some stRejected
  else if deviceCmd opc && !g.rights then some stRejected
  else if h.len.toNat != cmdLen opc h.len.toNat then some stRejected
  else none

/-- A command's own rule. -/
def State.cmdEffect (s : State) (c : Cmd) : State × CmdOut :=
  let w := cmdWords c
  match c.hdr.opc.toNat with
  | 1 => s.launchRoot c
  | 2 => s.cmdPartWrite c w
  | 3 => (s, s.cmdPartRead w)
  | 4 => s.cmdFreeRows c w
  | 5 => (s, s.cmdErrorRead w)
  | 6 => s.cmdExportWrite w
  | 7 => (s, s.cmdExportRead w)
  | 8 => s.cmdGroupCreate c w
  | 9 => s.cmdGroupDestroy c w
  | 10 => s.cmdConfigWrite w
  | 11 => (s, s.cmdConfigRead w)
  | 12 => s.cmdCtxCreate c w
  | 13 => s.cmdCtxDestroy c w
  | _ => (s, .reply stUnsupported [])

/-- How a command's end is told. -/
def State.endCmd (s : State) (c : Cmd) : CmdOut → State
  | .reply st data => (s.putReply c.sess c.hdr st data).performed c.sess
  | .later => s.performed c.sess
  | .hold => { s with sessions := PMap.modify s.sessions c.sess fun x => { x with busy := true } }

/-- A command whose turn has come. -/
def State.performCmd (s : State) (g : Grant) (c : Cmd) : State :=
  match turnedAway g c.hdr with
  | some st => s.endCmd c (.reply st [])
  | none => match s.cmdEffect c with
    | (s, o) => s.endCmd c o

/-- The reply stored for a SEQ sent again (R83); none while it is still to come. -/
def State.repeatReply (s : State) (sess : Nat) (x : Session) (seq : Word) : State :=
  match x.replies.find? fun r => r.1.seq == seq with
  | some r => s.send (.reply sess r.1 r.2)
  | none => s

/-- Distances of a SEQ from NEXT (R84): ahead, and behind. -/
def ahead (x : Session) (seq : Word) : Nat := (seq.toNat + 2 ^ 32 - x.next) % 2 ^ 32
def behind (x : Session) (seq : Word) : Nat := (x.next + 2 ^ 32 - seq.toNat) % 2 ^ 32

/-- The first thing the Harbour can now do by itself: a packet that waited for an armed launch (R103), or a
held command (R84). -/
def State.harbourTurn (s : State) : Option State :=
  let ready (i : Instr) : Bool := match i with
    | .launch c => !s.armedIn c.hdr.ctx.toNat
    | .launchForward _ p => match parsePacket p, s.deviceId with
      | some k, some id => match k.parties.find? fun x => x.1 == id with
        | some own => !s.armedIn own.2
        | none => true
      | _, _ => true
    | _ => true
  match s.armWait.find? ready with
  | some i =>
    let s := { s with armWait := s.armWait.erase i }
    some (match i with
      | .launch c => match s.launchRoot c with
        | (s, o) => s.endCmd c o
      | .launchForward r p => s.launchPart r p
      | _ => s)
  | none =>
    let turn (x : Session) (k : Cmd) : Bool := (ahead x k.hdr.seq == 0 && !x.busy) || (1 ≤ behind x k.hdr.seq && behind x k.hdr.seq ≤ 256)
    match s.sessions.find? fun p => p.2.held.any (turn p.2) with
    | none => none
    | some (id, x) =>
      match x.held.find? (turn x) with
      | none => none
      | some k =>
        let s := { s with sessions := PMap.set s.sessions id { x with held := x.held.erase k } }
        some (if ahead x k.hdr.seq = 0 then s.performCmd x.grant k else s.repeatReply id x k.hdr.seq)

/-- Everything that the Harbour can now do by itself. -/
def State.harbourGo (s : State) : Nat → State
  | 0 => s
  | n + 1 => match s.harbourTurn with
    | some s => s.harbourGo n
    | none => s

/-- Commands and packets that wait, and some more. -/
def State.waitingCmds (s : State) : Nat := (s.sessions.map fun p => p.2.held.length).sum + s.armWait.length + 1

def State.harbour (s : State) : State := s.harbourGo s.waitingCmds

/-- A COMMAND ARRIVES (R80, R83, R84), where a port is left for it (R1). -/
def State.command (s : State) (c : Cmd) : State :=
  if !s.linked then s
  else match PMap.get? s.sessions c.sess with
  | none => { s with discarded := s.discarded + 1 }
  | some x =>
    let d := ahead x c.hdr.seq
    if d = 0 && !x.busy then (s.performCmd x.grant c).harbour
    else if d ≤ 255 then
      if x.held.length < Config.heldCommands then
        { s with sessions := PMap.set s.sessions c.sess { x with held := x.held ++ [c] } }
      else s
    else if 1 ≤ behind x c.hdr.seq && behind x c.hdr.seq ≤ 256 then s.repeatReply c.sess x c.hdr.seq
    else s.send (.reply c.sess { c.hdr with len := 8 } [BitVec.ofNat 32 stRejected, 0])

/-- The command as its row of the table names it. -/
def withOpc (c : Cmd) (opc : BitVec 8) : Cmd := { c with hdr := { c.hdr with opc := opc } }

def execLaunch (c : Cmd) (s : State) : Host.Outcome State Fault Refusal := .next (s.command (withOpc c 1))
def execPartWrite (c : Cmd) (s : State) : Host.Outcome State Fault Refusal := .next (s.command (withOpc c 2))
def execPartRead (c : Cmd) (s : State) : Host.Outcome State Fault Refusal := .next (s.command (withOpc c 3))

/-- FREE_ROWS with SET = 1 in word 2, and with SET = 0. -/
def withSet (c : Cmd) (set : Bool) : Cmd :=
  let w := c.pay.getD 2 0
  { withOpc c 4 with pay := (c.pay ++ List.replicate (3 - c.pay.length) 0).set 2 ((w >>> 1 <<< 1) ||| BitVec.ofNat 32 (bnum set)) }

def execFreeRowsSet (c : Cmd) (s : State) : Host.Outcome State Fault Refusal := .next (s.command (withSet c true))
def execFreeRowsClear (c : Cmd) (s : State) : Host.Outcome State Fault Refusal := .next (s.command (withSet c false))
def execErrorRead (c : Cmd) (s : State) : Host.Outcome State Fault Refusal := .next (s.command (withOpc c 5))
def execExportWrite (c : Cmd) (s : State) : Host.Outcome State Fault Refusal := .next (s.command (withOpc c 6))
def execExportRead (c : Cmd) (s : State) : Host.Outcome State Fault Refusal := .next (s.command (withOpc c 7))
def execGroupCreate (c : Cmd) (s : State) : Host.Outcome State Fault Refusal := .next (s.command (withOpc c 8))
def execGroupDestroy (c : Cmd) (s : State) : Host.Outcome State Fault Refusal := .next (s.command (withOpc c 9))
def execConfigWrite (c : Cmd) (s : State) : Host.Outcome State Fault Refusal := .next (s.command (withOpc c 10))
def execConfigRead (c : Cmd) (s : State) : Host.Outcome State Fault Refusal := .next (s.command (withOpc c 11))
def execCtxCreate (c : Cmd) (s : State) : Host.Outcome State Fault Refusal := .next (s.command (withOpc c 12))
def execCtxDestroy (c : Cmd) (s : State) : Host.Outcome State Fault Refusal := .next (s.command (withOpc c 13))

/-- UNASSIGNED_COMMAND: a code that Table 5.4 leaves unassigned; an assigned one is no such message. -/
def execUnassignedCommand (c : Cmd) (s : State) : Host.Outcome State Fault Refusal :=
  .next (if c.hdr.opc = 0 || 13 < c.hdr.opc.toNat then s.command c else s)

/-- MESSAGE_OUTSIDE_SESSION (R80). -/
def execMessageOutsideSession (_ : Cmd) (s : State) : Host.Outcome State Fault Refusal :=
  .next (if s.linked then { s with discarded := s.discarded + 1 } else s)

/-! Steps that let a command be answered. -/

/-- PARTITION_CHANGE_EFFECTIVE: the block has left the core, which is cleared for another context (R37, R38). -/
def execPartitionChangeEffective (core : Nat) (s : State) : Host.Outcome State Fault Refusal :=
  .next (match s.partPend.find? (·.core == core) with
    | none => s
    | some p =>
      if (s.block? core).isSome then s
      else
        let s := { s with partPend := s.partPend.erase p }
        let keep := p.entry.getLsbD 15 && (s.core core).lastCtx == some (p.entry.toNat % 256)
        ((if keep then s else s.clearCore core).complete p.cmd stOk).harbour)

/-- FREE_ROWS_APPLIED: all eight stacks have applied the oldest FREE_ROWS. -/
def execFreeRowsApplied (s : State) : Host.Outcome State Fault Refusal :=
  .next (match s.freePend with
    | [] => s
    | c :: r => (({ s with freePend := r } : State).complete c stOk).harbour)

/-- GROUP_REGISTERED: the switches have registered the group, or cannot serve it. -/
def execGroupRegistered (group : Nat) (served : Bool) (s : State) : Host.Outcome State Fault Refusal :=
  .next (if !s.linked then s else match PMap.get? s.groups group with
    | none => s
    | some g =>
      if g.ready then s
      else if served then
        (({ s with groups := PMap.set s.groups group { g with ready := true, round := 0 } } : State).complete g.cmd stOk).harbour
      else (({ s with groups := PMap.del s.groups group } : State).complete g.cmd stUnsupported).harbour)

/-! Launches across devices (R104, R363). -/

/-- LAUNCH_FORWARD: a participant that is ready checks the packet and arms, or tells the root why not (R421). -/
def execLaunchForward (root : Nat) (packet : List Word) (s : State) : Host.Outcome State Fault Refusal :=
  .next (if s.ready && s.linked then (s.launchPart root packet).harbour else s)

/-- ARMED: once all have armed, START; one that comes when START_TIMEOUT has passed finds the launch aborted (R104). -/
def execArmed (ctx dev : Nat) (gen : Word) (s : State) : Host.Outcome State Fault Refusal :=
  .next (if !s.linked then s else match s.armedLaunch true ctx gen with
    | none => s
    | some (key, l) =>
      match l.rankOf dev with
      | none => s
      | some k =>
        if s.startDue l then (s.abortLaunch key []).harbour
        else if l.armedBy.contains k then s
        else
          let s := { s with launches := PMap.set s.launches key { l with armedBy := k :: l.armedBy } }
          (s.tryStart key).harbour)

/-- PARTICIPANT_REFUSAL: the root aborts. -/
def execParticipantRefusal (ctx dev : Nat) (gen : Word) (_status : Nat) (s : State) : Host.Outcome State Fault Refusal :=
  .next (if !s.linked then s else match s.armedLaunch true ctx gen with
    | none => s
    | some (key, l) =>
      match l.rankOf dev with
      | none => s
      | some k => (s.abortLaunch key (if s.startDue l then [] else [k])).harbour)

/-- START: LASTGEN := g, and dispatch begins. -/
def execStart (ctx : Nat) (gen : Word) (s : State) : Host.Outcome State Fault Refusal :=
  .next (if !s.linked then s else match s.armedLaunch false ctx gen with
    | none => s
    | some (key, _) => (s.startHere key).harbour)

/-- ABORT: the participant disarms. DESIGN CHOICE (entry 54): an ABORT that finds its packet still waiting behind another armed
launch leaves it waiting. -/
def execAbort (ctx : Nat) (gen : Word) (s : State) : Host.Outcome State Fault Refusal :=
  .next (if !s.linked then s else match s.armedLaunch false ctx gen with
    | none => s
    | some (key, _) => (s.dropLaunch key).harbour)

/-- START_TIMEOUT at the root (R104). -/
def execStartTimeout (ctx : Nat) (gen : Word) (s : State) : Host.Outcome State Fault Refusal :=
  .next (match s.armedLaunch true ctx gen with
    | none => s
    | some (key, l) =>
      if s.startDue l then (s.abortLaunch key []).harbour else s)

/-- KILL_REPORT: the root forwards it on the LAUNCH's session (R363, R404); word 8 names the device it comes from. -/
def execKillReport (ctx : Nat) (gen : Word) (words : List Word) (s : State) : Host.Outcome State Fault Refusal :=
  .next (if !s.linked then s else match s.runLaunch ctx (bits (wordAt words 8) 0 13) gen with
    | none => s
    | some (_, l) => s.send (.report l.sess 1 l.hdr.ctx.toNat l.hdr.seq l.hdr.tag words))

/-- END_MESSAGE: once every participant has ended, the completion report (R363). -/
def execEndMessage (ctx dev : Nat) (gen : Word) (killed : Nat) (s : State) : Host.Outcome State Fault Refusal :=
  .next (if !s.linked then s else match s.runLaunch ctx dev gen with
    | none => s
    | some (key, l) =>
      match l.rankOf dev with
      | none => s
      | some k =>
        let l := { l with endedBy := k :: l.endedBy, killedAll := l.killedAll + killed }
        let s := { s with launches := PMap.set s.launches key l }
        if l.allEnded then s.reportDone key l else s)

/-! Sessions (R423, R424). -/

def byteAt (seed i : Nat) : Byte := (Config.free64 (seed * 256 + i)).setWidth 8

/-- The bytes that an attestation report signs (Table 24.5). -/
def attestBody (sec : Nat) (warm : Bool) (digest nonce key : List Byte) : List Byte :=
  let fit (n : Nat) (l : List Byte) : List Byte := (l ++ List.replicate n 0).take n
  natLe 4 0x00014C48 ++ natLe 2 sec ++ natLe 2 (bnum warm) ++ fit 48 digest ++ fit 48 nonce ++ fit 97 key ++ List.replicate 7 0

/-- SESSION_NONCE: a report with a fresh ephemeral key, an uncompressed point whose coordinates are free values (entry 13). -/
def execSessionNonce (nonce : List Byte) (s : State) : Host.Outcome State Fault Refusal :=
  .next (
    if !s.ready || !s.linked then s
    else
      let key : List Byte := 4 :: (List.range 96).map (byteAt s.fresh)
      let body := attestBody s.secVersion s.warm s.fwDigest nonce key
      let s := { s.tick with nonces := s.nonces ++ [nonce] }
      s.send (.attestation (body ++ Config.signature body)))

/-- SESSION_GRANT: a grant that verifies opens a session, up to sixteen; the verification's outcome is the
event's (entry 13). -/
def execSessionGrant (id : Nat) (g : Grant) (verified : Bool) (s : State) : Host.Outcome State Fault Refusal :=
  .next (if !s.linked then s else match s.nonces with
    | [] => s
    | _ :: r =>
      let s := { s with nonces := r }
      if verified && s.ready && decide (s.sessions.length < Config.sessions) && !PMap.has s.sessions id then
        { s with sessions := PMap.set s.sessions id ⟨g, 0, false, [], []⟩ }
      else s)

end Sys2Proof.Machine
end

