-- ==== Sys2Proof/Machine/Engine.lean ====
section
/-! DEFINITION. What the engine computes: the butterfly stages, the tied-mode tile, MCOPY and the state-space
unit, on a block's scratchpad and accumulator storage (R262 to R274, R281 to R294). Each instruction is a
list of parts: a vector, a tile, the copy, a chunk or a row. -/

namespace Sys2Proof.Machine

open Sys2Proof.Num

/-! Operands (R262, R263). -/

/-- What an engine instruction reads: the bytes of scratchpad and of accumulator storage. -/
structure EngMem where
  sp : Nat → Byte
  acc : Nat → Byte

def Block.engMem (b : Block) : EngMem := ⟨b.spad?, b.acc?⟩

/-- n bytes as a number. -/
def rdNat (rd : Nat → Byte) (a n : Nat) : Nat := leNat ((List.range n).map fun i => rd (a + i))

/-- Bytes of an element. -/
def xfBytes : XFmt → Nat
  | .bf16 | .f16 => 2
  | .shelf8 | .i8 => 1

def yfBytes : YFmt → Nat
  | .f32 | .acc => 4
  | .bf16 | .f16 => 2

/-- Bytes of a row of n elements, its scales included. -/
def engRowBytes (x : XFmt) (n : Nat) : Nat := n * xfBytes x + (match x with | .shelf8 => n / 16 | _ => 0)

/-- Element e of a row of n elements at an address, exactly (R263). -/
def element (rd : Nat → Byte) (x : XFmt) (at_ n e : Nat) : Val :=
  match x with
  | .bf16 => bf16.decode (rdNat rd (at_ + 2 * e) 2)
  | .f16 => fp16.decode (rdNat rd (at_ + 2 * e) 2)
  | .shelf8 => (shelf8 (rd (at_ + e)).toNat).mul (e8 (rd (at_ + n + e / 16)).toNat)
  | .i8 => ofInt (rd (at_ + e)).toInt

/-- The bytes of a result element. -/
def resultBytes (y : YFmt) (r : Rnd) (v : Val) : List Byte :=
  match y with
  | .f32 | .acc => natLe 4 (fp32.round r v)
  | .bf16 => natLe 2 (bf16.round r v)
  | .f16 => natLe 2 (fp16.round r v)

/-- The exact sum of some terms, its zero signed as R219 says for the mode (R265, R266). -/
def exactSum (r : Rnd) : List Val → Val
  | [] => .fin false 0 0
  | v :: l => l.foldl (fun a b => a.add r b) v

/-! The butterfly stage (R264 to R267). -/

/-- Bytes of stage weights, without and with the padding to 16. -/
def weightBytes (x : XFmt) (n : Nat) (st : Stage) : Nat := engRowBytes x (n * st.radix)
def regionBytes (x : XFmt) (n : Nat) (st : Stage) : Nat := (weightBytes x n st + 15) / 16 * 16

/-- The stages with the addresses of their weights, from WBASE on. -/
def regions (x : XFmt) (n : Nat) : Nat → List Stage → List (Stage × Nat)
  | _, [] => []
  | off, st :: l => (st, off) :: regions x n (off + regionBytes x n st) l

/-- Element e's group base, group number and position (R265): the groups are numbered by ascending base. -/
def groupBase (st : Stage) (e : Nat) : Nat := e / (st.radix * st.stride) * (st.radix * st.stride) + e % st.stride
def groupNo (st : Stage) (e : Nat) : Nat := e / (st.radix * st.stride) * st.stride + e % st.stride
def groupPos (st : Stage) (e : Nat) : Nat := e / st.stride % st.radix

/-- The exact sum at output element e of one stage. -/
def stageSum (w : Nat → Val) (st : Stage) (r : Rnd) (u : Nat → Val) (e : Nat) : Val :=
  exactSum r ((List.range st.radix).map fun q =>
    (w (groupNo st e * (st.radix * st.radix) + groupPos st e * st.radix + q)).mul (u (groupBase st e + q * st.stride)))

/-- All stages of one vector: the exact sums of the last one. -/
def stages (wrd : Nat → Byte) (x : XFmt) (n : Nat) (r : Rnd) : List (Stage × Nat) → List Val → List Val
  | [], u => u
  | (st, off) :: l, u =>
    let w (i : Nat) : Val := element wrd x off (n * st.radix) i
    let mode : Rnd := if l.isEmpty then r else .rn
    let t := (List.range n).map (stageSum w st mode fun e => u.getD e .nan)
    if l.isEmpty then t
    else stages wrd x n r l (t.map fun v => fp32.decode (fp32.round .rn v))

/-- Bytes in the outputs of some rows are not defined where weights are read from them (R270). -/
def weightRead (rd : Nat → Byte) (seed : Nat) (dst pitch rows len : Nat) (a : Nat) : Byte :=
  if (if pitch = 0 then decide (dst ≤ a) && decide (a < dst + len)
      else decide (dst ≤ a) && (List.range (len / pitch + 1)).any fun k =>
        let v := (a - dst) / pitch - k
        decide (k ≤ (a - dst) / pitch) && decide (v < rows) && decide (a < dst + v * pitch + len))
  then seedByte (some seed) a else rd a

/-! Tied mode (R272, R273, R287). -/

/-- round_a24_rne of an exact value, as the value that it is. -/
def a24rne (v : Val) : Val := a24.decode (a24.round .rn v)
def f32rne (v : Val) : Val := fp32.decode (fp32.round .rn v)
def zeroVal : Val := .fin false 0 0

/-- The K-steps of one element: `c` and `part` after the steps from t on. -/
def tied (period : Nat) (step : Nat → List Val) (last : Nat) : Nat → Nat → Val → Val → Val
  | 0, _, c, _ => c
  | n + 1, t, c, part =>
    let p := a24rne (exactSum .rn (part :: step t))
    if (t + 1) % period = 0 || t = last then tied period step last n (t + 1) (f32rne (c.add .rn p)) zeroVal
    else tied period step last n (t + 1) c p

/-- Σ over K in K-steps of 16 from c on, promoted after every `period` steps. -/
def tiedDot (period : Nat) (c : Val) (k : Nat) (u v : Nat → Val) : Val :=
  let steps := (k + 15) / 16
  tied period (fun t => (List.range 16).map fun i =>
    if 16 * t + i < k then (u (16 * t + i)).mul (v (16 * t + i)) else zeroVal) (steps - 1) steps 0 c zeroVal

/-! The parts. -/

/-- One vector of BFS or BFCH. -/
def bfPart (b : Block) (seed n vecs : Nat) (st : List Stage) (src sp dst dp w : Nat) (x : XFmt) (y : YFmt) (r : Rnd)
    (v : Nat) : Block :=
  let m := b.engMem
  let wrd := if y = .acc then m.sp else weightRead m.sp seed dst dp vecs (n * yfBytes y)
  let u := (List.range n).map (element m.sp x (src + v * sp) n)
  let out := (stages wrd x n r (regions x n w st) u).flatMap (resultBytes y r)
  if y = .acc then b.accPut (dst + v * dp) out else b.spadPut (dst + v * dp) out

/-- With a pitch below 64 bytes, element (i, j) of a tile of C shares its bytes with another row of the tile; R273 orders
the tiles and not their elements (entry 51). -/
def tileClash (cp i j : Nat) : Bool :=
  (List.range 16).any fun k => k != i && decide (k * cp ≤ i * cp + 4 * j) && decide (i * cp + 4 * j < k * cp + 64)

/-- One 16 × 16 tile of BFT. -/
def bftPart (b : Block) (seed n k a ap c cp w wp period : Nat) (x : XFmt) (set : Bool) (tile : Nat) : Block :=
  let m := b.engMem
  let i0 := 16 * (tile / (n / 16))
  let j0 := 16 * (tile % (n / 16))
  let el (i j : Nat) : Val :=
    tiedDot period (if set then zeroVal else fp32.decode (rdNat m.acc (c + i * cp + 4 * j) 4)) k
      (element m.sp x (a + i * ap) k) fun t => element m.sp x (w + t * wp) n j
  (List.range 16).foldl (fun b i =>
    let at_ := c + (i0 + i) * cp + 4 * j0
    b.accPut at_ ((List.range 16).flatMap fun j =>
      if tileClash cp i j then (List.range 4).map fun x => seedByte (some seed) (at_ + 4 * j + x)
      else natLe 4 (fp32.round .rn (el (i0 + i) (j0 + j))))) b

/-- MCOPY, whole (R274). -/
def mcopyPart (b : Block) (dir : MDir) (src dst len : Nat) : Block :=
  match dir with
  | .sa => b.accPut dst (b.spadBytes src len)
  | .as => b.spadPut dst (b.accBytesAt src len)
  | .ss => b.spadPut dst (b.spadBytes src len)
  | .aa => b.accPut dst (b.accBytesAt src len)

/-- The parts of an SSCAN (R285): first row, and the rows of a chunk or none for a stepwise row. -/
def scanParts (l q : Nat) : List (Nat × Option Nat) :=
  let full := l / q
  let lc := 16 * (l % q / 16)
  ((List.range full).map fun i => (i * q, some q)) ++ (if lc = 0 then [] else [(full * q, some lc)]) ++
    (List.range (l % q - lc)).map fun i => (full * q + lc + i, none)

/-- The ex2 of R289 on FP32 values. -/
def ex2Val (v : Val) : Val := f32v (ex2 (f32 .rn v))

/-- Λ of a chunk (R287). -/
def lambdas (g : Nat → Val) : Nat → Nat → Val → List Val
  | 0, _, _ => []
  | n + 1, s, lam => let v := f32rne (lam.add .rn (g s)); v :: lambdas g n (s + 1) v

/-- The operands of an SSCAN as values: x, g, B, C and the state. -/
structure ScanIn where
  x : Nat → Nat → Val
  g : Nat → Val
  b : Nat → Nat → Val
  c : Nat → Nat → Val
  h : Nat → Nat → Val

/-- The outputs of a part: y by row and the new state. -/
structure ScanOut where
  y : Nat → Nat → Val
  h : Nat → Nat → Val

/-- A chunk of lc rows from a row on (R287). -/
def chunk (i : ScanIn) (n row lc : Nat) : ScanOut :=
  let lam := lambdas (fun s => i.g (row + s)) lc 0 zeroVal
  let lamAt (t : Nat) : Val := lam.getD t .nan
  let f (t s : Nat) : Val := ex2Val ((lamAt t).add .rn (lamAt s).neg)
  let e (t : Nat) : Val := ex2Val (lamAt t)
  let w (t s : Nat) : Val :=
    if t < s then zeroVal
    else f32rne ((tiedDot 1 zeroVal n (i.c (row + t)) (i.b (row + s))).mul (f t s))
  let ws := (List.range lc).map fun t => (List.range lc).map (w t)
  { y := fun t p =>
      let yi := tiedDot 1 zeroVal lc (fun s => (ws.getD t []).getD s .nan) fun s => i.x (row + s) p
      let hc := tiedDot 1 zeroVal n (i.h p) (i.c (row + t))
      f32rne (yi.add .rn (f32rne ((e t).mul hc)))
    h := fun p k =>
      (List.range lc).foldl (fun a s =>
        f32rne (a.add .rn (((f (lc - 1) s).mul (i.x (row + s) p)).mul (i.b (row + s) k))))
        (f32rne ((e (lc - 1)).mul (i.h p k))) }

/-- A stepwise row (R288). -/
def stepwise (i : ScanIn) (n row : Nat) : ScanOut :=
  let a := ex2Val (i.g row)
  let h (p k : Nat) : Val :=
    f32rne ((a.mul (i.h p k)).add .rn (f32rne ((i.x row p).mul (i.b row k))))
  { y := fun _ p => (List.range n).foldl (fun c k => f32rne (c.add .rn ((h p k).mul (i.c row k)))) zeroVal
    h := h }

/-- One part of an SSCAN: every input is read before a byte is written (R290). -/
def sscanPart (b : Block) (p n : Nat) (x xp bb cb bcp y yp g h : Nat) (f16 : Bool) (yf : YFmt)
    (part : Nat × Option Nat) : Block :=
  let m := b.engMem
  let xf : XFmt := if f16 then .f16 else .bf16
  let hp := 16 * ((n + 3) / 4)
  let inp : ScanIn := {
    x := fun t i => element m.sp xf (x + t * xp) p i
    g := fun t => fp32.decode (rdNat m.sp (g + 4 * t) 4)
    b := fun t i => element m.sp xf (bb + t * bcp) n i
    c := fun t i => element m.sp xf (cb + t * bcp) n i
    h := fun r i => fp32.decode (rdNat m.acc (h + r * hp + 4 * i) 4) }
  let rows := part.2.getD 1
  let out := match part.2 with
    | some lc => chunk inp n part.1 lc
    | none => stepwise inp n part.1
  let ys := (List.range rows).map fun t => (List.range p).flatMap fun i => resultBytes yf .rn (out.y t i)
  let hs := (List.range p).map fun r => (List.range n).flatMap fun k => natLe 4 (fp32.round .rn (out.h r k))
  let b := ((List.range rows).zip ys).foldl (fun (b : Block) e => b.spadPut (y + (part.1 + e.1) * yp) e.2) b
  ((List.range p).zip hs).foldl (fun (b : Block) e => b.accPut (h + e.1 * hp) e.2) b

/-- What an instruction reads: whether of accumulator storage, base, pitch, rows, bytes of a row. -/
def EngineOp.reads : EngineOp → List (Bool × Nat × Nat × Nat × Nat)
  | .bf n vecs st src sp _ _ w x _ _ =>
    (false, src, sp, vecs, engRowBytes x n) :: (regions x n w st).map fun (p : Stage × Nat) => (false, p.2, 0, 1, weightBytes x n p.1)
  | .bft m n k a ap c cp w wp _ x set =>
    [(false, a, ap, m, engRowBytes x k), (false, w, wp, k, engRowBytes x n)] ++ (if set then [] else [(true, c, cp, m, 4 * n)])
  | .mcopy dir src _ len => [(dir == .as || dir == .aa, src, 0, 1, len)]
  | .sscan l p n _ x xp b c bcp _ _ g h _ _ =>
    [(false, x, xp, l, 2 * p), (false, b, bcp, l, 2 * n), (false, c, bcp, l, 2 * n), (false, g, 4, l, 4),
     (true, h, 16 * ((n + 3) / 4), p, 4 * n)]

/-- The instruction reads a pool word that cannot be corrected (R426). -/
def EngineOp.upset (op : EngineOp) (b : Block) : Bool :=
  op.reads.any fun r => (if r.1 then b.upAcc else b.upSp).any fun w =>
    (List.range r.2.2.2.1).any fun v => meets [w] (r.2.1 + v * r.2.2.1) r.2.2.2.2

/-- How many parts an instruction has. -/
def EngineOp.parts : EngineOp → Nat
  | .bf _ vecs .. => vecs
  | .bft m n .. => (m / 16) * (n / 16)
  | .mcopy .. => 1
  | .sscan l _ _ q .. => (scanParts l q).length

/-- One part performed. -/
def EngineOp.part (op : EngineOp) (seed i : Nat) (b : Block) : Block :=
  match op with
  | .bf n vecs st src sp dst dp w x y r => bfPart b seed n vecs st src sp dst dp w x y r i
  | .bft _ n k a ap c cp w wp period x set => bftPart b seed n k a ap c cp w wp period x set i
  | .mcopy dir src dst len => mcopyPart b dir src dst len
  | .sscan l p n q x xp bb cb bcp y yp g h f16 yf =>
    sscanPart b p n x xp bb cb bcp y yp g h f16 yf ((scanParts l q).getD i (0, none))

/-- Multiply-accumulates a cycle (R275). -/
def xfRate : XFmt → Nat
  | .bf16 | .f16 => 4096
  | .shelf8 | .i8 => 8192

/-- Cycles to do some work at a rate. -/
def cyclesFor (work rate : Nat) : Nat := (work + rate - 1) / rate

/-- Cycles of one part of an SSCAN and the units each draws (Table 15.10, R386). -/
def scanDraw (p n : Nat) : Option Nat → Nat × Nat
  | some lc => (48 + cyclesFor (lc * (lc * (n + p) + 2 * p * n)) 4096 + cyclesFor (lc * (lc + 1)) 64, 16)
  | none => (8 + 2 * cyclesFor (p * n) 1024, 8)

/-- The cycles before the first part. -/
def EngineOp.issueDraw : EngineOp → Nat × Nat
  | .bf .. | .bft .. => (32, 16)
  | .mcopy .. => (16, 8)
  | .sscan .. => (32, 8)

/-- The occupancy of the parts from one on (Tables 14.11 and 15.10, R386). DESIGN CHOICE (entry 12): where M·N·K / R of a BFT, or of
the tiles left of it, is no whole number of cycles, it is rounded up. -/
def EngineOp.drawsFrom (op : EngineOp) (i : Nat) : List (Nat × Nat) :=
  match op with
  | .bf n vecs st _ _ _ _ _ x _ _ => [((vecs - i) * (st.map fun (k : Stage) => cyclesFor (n * k.radix) (xfRate x)).sum, 16)]
  | .bft m n k _ _ _ _ _ _ _ x _ => [(cyclesFor (((m / 16) * (n / 16) - i) * 256 * k) (xfRate x), 16)]
  | .mcopy _ _ _ len => if i = 0 then [(cyclesFor len 256, 8)] else []
  | .sscan l p n q .. => ((scanParts l q).drop i).map fun (k : Nat × Option Nat) => scanDraw p n k.2

/-- Occupancy that is over is dropped. -/
def trimDraws : List (Nat × Nat) → List (Nat × Nat)
  | (0, _) :: r => trimDraws r
  | l => l

/-- The boundary at which an engine instruction stands, as the number of parts done (R279, R294): the end of a vector, a tile, a
chunk or a row; none inside a part, before the first, and in an MCOPY, which runs to its completion. -/
def Engine.boundary (e : Engine) : Option Nat :=
  (List.range e.op.parts).find? fun k => decide (1 ≤ k) && decide (e.next ≤ k) && trimDraws e.draws == trimDraws (e.op.drawsFrom k)

/-- A number of parts from a part on. -/
def EngineOp.run (op : EngineOp) (seed : Nat) : Nat → Nat → Block → Block
  | 0, _, b => b
  | n + 1, i, b => op.run seed n (i + 1) (op.part seed i b)

end Sys2Proof.Machine
end

