-- ==== Sys2Proof/Machine/Sequence.lean ====
section
/-! DEFINITION. The matrix sequencer: the issue of a word, the loop-end step, the end of the stream
(R250 to R252, R257, R258, R276). -/

namespace Sys2Proof.Machine

def Sequencer.mreg (q : Sequencer) (i : Nat) : Word := (PMap.get? q.m i).getD 0
def Sequencer.sdreg (q : Sequencer) (i : Nat) : Word := (PMap.get? q.sd i).getD 0
def Sequencer.lcreg (q : Sequencer) (i : Nat) : BitVec 16 := (PMap.get? q.lc i).getD 0
def Sequencer.setM (q : Sequencer) (i : Nat) (x : Word) : Sequencer := { q with m := PMap.set q.m i x }

/-- The loop-end step at the address E (R258): counters of the loops that end there, from the top. -/
def loopEnd (e : DWord) : List LoopEntry → PMap (BitVec 16) → DWord × List LoopEntry × PMap (BitVec 16)
  | [], lc => (e + 4, [], lc)
  | x :: r, lc =>
    if x.last = e then
      let v := (PMap.get? lc x.ctr).getD 0 - 1
      let lc := PMap.set lc x.ctr v
      if v = 0 then loopEnd e r lc else (x.first, x :: r, lc)
    else (e + 4, x :: r, lc)

/-- The next word after the word at E has executed or been passed over. -/
def Sequencer.step (q : Sequencer) (e : DWord) : Sequencer :=
  match loopEnd e q.loops q.lc with
  | (pc, loops, lc) => { q with pc := pc, loops := loops, lc := lc }

/-- The word at the stream position has executed, or has been passed over: with Z = 1 the stream ends, and the
sequencer with it once no engine instruction runs (R250). -/
def Sequencer.after (q : Sequencer) (z : Bool) : Sequencer :=
  if z then { q with last := true, loops := [], parked := false, ended := q.engine.isNone }
  else { q.step q.pc with parked := false }

/-- What a matrix word does: it has executed, it waits, or it raises a trap of the sequencer (R276). -/
inductive SeqAct where
  | done (s : State)
  | wait (s : State)
  | trap (cause : Cause) (arg addr : Nat)

def State.modSeq (s : State) (c : Nat) (f : Sequencer → Sequencer) : State :=
  s.modBlock c fun b => { b with seq := f b.seq }

/-- THE ISSUE OF A MATRIX WORD by the acting core's sequencer. -/
def State.seqIssue (s : State) (i : Instr) (z : Bool) (f : Nat → Block → State → SeqAct) :
    Host.Outcome State Fault Refusal :=
  let c := s.cur.core
  if !s.seqReady c then .fault .noSequencer
  else match s.block? c with
  | none => .fault .noSequencer
  | some b =>
    .next (
      if !i.legal then s.seqTrap c .illegalInstruction 0 0
      else match f c b s with
      | .done s => (s.modSeq c fun q => q.after z).settle
      | .wait s => s
      | .trap cause arg addr => s.seqTrap c cause arg addr)

/-- A word whose effect is on the sequencer's registers alone. -/
def State.seqScalar (s : State) (i : Instr) (z : Bool) (f : Sequencer → Sequencer) : Host.Outcome State Fault Refusal :=
  s.seqIssue i z fun c _ s => .done (s.modSeq c f)

/-- The word a sequencer trap stands at is passed over (R278). DESIGN CHOICE (entry 39): a word that cannot be read has Z = 0, so
that the stream goes on with the next. -/
def State.seqPass (s : State) (c : Nat) : State :=
  match s.block? c with
  | none => s
  | some b =>
    let z := match s.lookAt c b.seq.pc false with
      | some w => bit w.toNat 0
      | none => false
    s.modSeq c fun q => ({ q with trap := none } : Sequencer).after z

/-- The faulting word is executed again (R278). DESIGN CHOICE (entry 52): MSQADDR keeps its value until the next trap. -/
def State.seqRetry (s : State) (c : Nat) : State := s.modSeq c fun q => { q with trap := none }

end Sys2Proof.Machine
end

