-- ==== Sys2Proof/Machine/Scheduling.lean ====
section
/-! DEFINITION. Blocks onto cores, arbitration, the power allowance, Longshore, safe-point stops and the watchdog's
kill (R251, R353, R357 to R359, R364 to R370, R384 to R389, R395, R404, R406, R408, R410, R411, R416). -/

namespace Sys2Proof.Machine

/-! The trace of a block (R416, R418). -/

/-- The core's trace as a block starts or is restored: entry c of the context's trace table. DESIGN CHOICE (entry 49): where the
entry cannot be read the core is not traced, and nothing counts as lost. -/
def State.openTrace (s : State) (c ctx : Nat) : State :=
  let table := ((PMap.get? s.ctxs ctx).map (·.trace.toNat)).getD 0
  if table = 0 then s.modCore c fun x => { x with trace := .off }
  else
    let s := s.flushOrder c
    match s.peek c ctx (table + 32 * c) true 32 with
    | (s, none) => s.modCore c fun x => { x with trace := .off }
    | (s, some l) =>
      let w := leWords l
      let ctl := wordAt w 2
      let on := bit ctl 8 && wordAt w 0 % 4096 == 0 && decide (12 ≤ bits ctl 0 5) && decide (bits ctl 0 5 ≤ 30) &&
        bits ctl 5 3 == 0 && bits ctl 9 7 == 0
      s.modCore c fun x => { x with trace := { Trace.off with
        on := on
        base := BitVec.ofNat 64 (pairAt w 0)
        log2 := bits ctl 0 5
        types := BitVec.ofNat 32 (bits ctl 16 16)
        entry := BitVec.ofNat 64 (table + 32 * c)
        wrptr := BitVec.ofNat 64 (pairAt w 3)
        lost := wordAt w 5 } }

/-- A TIME packet: the arithmetic-clock cycles since cold reset. DESIGN CHOICE (entry 61): it stands in its cycle where datapath 0's
packets stand, since R419 gives it no place. -/
def State.emitTime (s : State) (c : Nat) : State := s.emit c 7 (16 * (s.cycle % 2 ^ 56))

/-! Dispatch (R364 to R367). -/

/-- Temperatures are kept by sensor: a compute junction, then a bank (R70, R428). -/
def sensorKey : Sensor → Nat
  | .compute stack quadrant => 4 * (stack % 4) + quadrant % 4
  | .bank stack bank => 16 + 48 * (stack % 8) + bank % 48

/-- A compute stack with a junction above 105 °C takes no new block (R428). -/
def State.hotStack (s : State) (stack : Nat) : Bool :=
  (List.range 4).any fun q => match PMap.get? s.temps (4 * stack + q) with
    | some t => decide (105 < t)
    | none => false

/-- An HBM stack with a bank above 105 °C: its thermal alert (R70). -/
def State.hbmAlert (s : State) (stack : Nat) : Bool :=
  (List.range 48).any fun k => match PMap.get? s.temps (16 + 48 * stack + k) with
    | some t => decide (105 < t)
    | none => false

/-- The voltage domain of a layer of a quadrant: compute 0, base 1 (R27). -/
def domainOf (stack quadrant layer : Nat) : Nat := 8 * stack + 2 * quadrant + layer

/-- The compute-layer domain of a core (R25, R27). -/
def coreDomain (c : Nat) : Nat := domainOf (coreDie c) (coreQuadrant c % 4) 0

/-- RATE and CAP of a core's compute-layer domain: firmware's settings (R384, entry 5), RATE halved, floor 1, where
the quadrant's junction or an attached stack is hot, and 1 where the stack has a junction above 105 °C (R428). -/
def State.rateOf (s : State) (c : Nat) : Nat :=
  let r := (PMap.get? s.rate (coreDomain c)).getD 255
  let k := coreDie c
  let r := if s.throttle.contains (coreQuadrant c) then max 1 (r / 2) else r
  let r := if s.hbmAlert (2 * k) || s.hbmAlert (2 * k + 1) then max 1 (r / 2) else r
  if s.hotStack k then 1 else r
def State.capOf (s : State) (c : Nat) : Nat := (PMap.get? s.cap (coreDomain c)).getD 65535

/-- A core that a block of a context may take (R36, R37, R366). DESIGN CHOICE (entry 57): on a hot stack a saved block is not placed
either (R428). -/
def State.freeFor (s : State) (ctx c : Nat) : Bool :=
  s.allotted c ctx && (s.block? c).isNone && !s.partPend.any (·.core == c) && !(s.core c).withdrawn && !s.hotStack (coreDie c)

def State.freeCore (s : State) (ctx : Nat) : Option Nat := (List.range Config.cores).find? (s.freeFor ctx)

/-- Resident and saved blocks of a context, each of which holds a slot of its save area (R92). -/
def State.slotsUsed (s : State) (ctx : Nat) : Nat :=
  (s.blocks.filter fun p => p.2.ctx == ctx).length + (s.saved.filter (·.block.ctx == ctx)).length

/-- A waiting block of the launch can be placed. -/
def State.placeable (s : State) (l : Launch) : Bool :=
  l.started.isSome && !l.waiting.isEmpty && (s.freeCore l.ctx).isSome &&
    decide (s.slotsUsed l.ctx < ((PMap.get? s.ctxs l.ctx).map (·.saveSlots)).getD 0)

/-- Which of two launches' blocks goes first: higher PRIO, then the earlier start. -/
def goesFirst (a b : Nat × Launch) : Bool :=
  decide (b.2.prio < a.2.prio) || (a.2.prio == b.2.prio && decide (a.2.started.getD 0 ≤ b.2.started.getD 0))

/-- The launch whose block is dispatched next (R366). -/
def State.nextLaunch (s : State) : Option (Nat × Launch) :=
  (s.launches.filter fun p => s.placeable p.2).foldl (fun (a : Option (Nat × Launch)) p => match a with
    | none => some p
    | some q => if goesFirst q p then some q else some p) none

/-- Lanes of registers and pool bytes that nothing has written: zero on a cleared core, else free (Table 11.1,
R38, entries 4 and 6). -/
def seedOf (cleared : Bool) (n : Nat) : Option Nat := if cleared then none else some n

/-- The refill frame of a team as it starts (R349): every lane has to draw, then runs the prologue. -/
def startFrame (r : KernelRec) : RefillFrame where
  held := 0
  phase := .prologue
  label := r.body
  cont := 0
  runs := []
  retired := []
  toDraw := List.range r.size
  drew := 0
  inside := 0

/-- Team t of block b as it starts (R365, R367). -/
def Launch.team (l : Launch) (b t cycle seed : Nat) (cleared : Bool) : Team :=
  let total := l.blocks * l.teams
  let j := b * l.teams + t
  let at_ (k : Nat) : Word := BitVec.ofNat 32 (l.rbegin + k * (l.rend - l.rbegin) / total)
  let tm := Team.initial l.rec_.entry l.rec_.size l.rec_.allot l.prio l.rec_.pers (at_ j) (at_ (j + 1)) l.arg
    (seedOf cleared (seed + 2 * t)) (some (seed + 2 * t + 1)) cycle
  if l.rec_.rf then { tm with stack := [.refill (startFrame l.rec_)], act := 0 } else tm

/-- Range tasks of a launch moved from the Harbour into a core's queue (R366). -/
def State.moveTasks (s : State) (c launch : Nat) : State :=
  let room := Config.tasks - (s.core c).tasks.length
  let mine := (s.tasks.filter (·.launch == launch)).take room
  let s := { s with tasks := mine.foldl (fun l k => l.erase k) s.tasks }
  s.modCore c fun x => { x with tasks := x.tasks ++ mine }

/-- Lasting pool banks replaced by spare ones as a block starts; a new bank has had no error (R427). -/
def State.replaceBanks (s : State) (c : Nat) : State :=
  let x := s.core c
  ({ s with poolErrs := s.poolErrs.filter fun p => !x.lastingBanks.any fun b => poolKey c b == p.1 } : State).setCore c
    { x with spares := x.spares - x.lastingBanks.length, lastingBanks := [] }

/-- Block b of a launch starts on core c. -/
def State.startBlock (s : State) (c key b : Nat) (l : Launch) : State :=
  let cleared := (s.core c).lastCtx != some l.ctx
  let s := if cleared then s.clearCore c else s
  let seed := s.fresh
  let s := { s with fresh := s.fresh + 40, launches := PMap.set s.launches key { l with waiting := l.waiting.erase b, live := l.live + 1 } }
  let s := (s.replaceBanks c).modCore c fun x => { x with
    lastCtx := some l.ctx, dps := [], allow := s.capOf c, shore := .idle }
  let blk := Block.initial seed key l.ctx b l.teams l.rec_ (seedOf cleared (seed + 32)) (seedOf cleared (seed + 33))
  let s := { s with blocks := PMap.set s.blocks c blk }
  let s := (s.moveTasks c key).openTrace c l.ctx
  let s := s.emitTime c
  let s := (List.range l.teams).foldl (fun s t => s.setTeam c t (l.team b t s.cycle seed cleared)) s
  if l.rec_.rf then (List.range l.teams).foldl (fun s t => s.drawGo c t) s else s

/-- BLOCK_DISPATCH: the next waiting block, in the Harbour's order, onto the lowest free core. -/
def execBlockDispatch (s : State) : Host.Outcome State Fault Refusal :=
  .next (match s.nextLaunch with
    | none => s
    | some (key, l) =>
      match s.freeCore l.ctx, l.waiting with
      | some c, b :: _ => s.startBlock c key b l
      | _, _ => s)

/-! The end of a block (R251, R277). -/

/-- The report of a sequencer trap that no team is left to take (R277). -/
def State.seqReport (s : State) (c : Nat) (b : Block) : State :=
  match b.seq.trap with
  | none => s
  | some k => s.reportKill c 0 3 k.cause b.seq.pc k.addr

/-- BLOCK_END: every team has ended, and the sequencer with its stream, or with a trap that nobody is left to take; the
block's trace is written first (R417). -/
def execBlockEnd (core : Nat) (s : State) : Host.Outcome State Fault Refusal :=
  .next (match s.block? core with
    | none => s
    | some b =>
      if !(s.liveTeams core).isEmpty then s
      else if b.seq.engine.isSome || (!b.seq.ended && b.seq.trap.isNone) then s
      else
        let s := if b.group.isSome then s.revokeSlot core else s
        if b.group.isSome && !s.leaveReady core then s
        else
          let s := s.traceAll core
          if s.tracing core then s else ((s.seqReport core b).blockOff core).harbour)

/-! Stops at safe points (R406, R408). -/

/-- The safe point at an address. -/
def KernelRec.safeAt (r : KernelRec) (pc : DWord) : Option (List Word) := (r.safe.find? (·.1 == pc)).map (·.2)

/-- The team stands before a clause at which it is to stop: its safe point, or any clause after 1 ms. -/
def Team.mustStop (t : Team) (r : KernelRec) : Bool :=
  (t.status == .live || t.status == .parked) && t.stopReq && t.words = 0 && t.advs.isEmpty && (t.pad.isNone || t.status == .parked) &&
    (t.saveAll || (!t.p1 && (r.safeAt t.pc).isSome))

/-- Every team of a block that is to stop where it stands has stopped. -/
def State.stopTeams (s : State) (c : Nat) : State :=
  match s.block? c with
  | none => s
  | some b =>
    if !b.stopping then s
    else (List.range 16).foldl (fun s t => match s.team? c t with
      | some tm => if tm.mustStop b.rec_ then (s.setTeam c t { tm with status := .stopped }).freeDp c t else s
      | none => s) s

/-! Arbitration (R368, R369, R385, R388, R395). -/

/-- The weight of a pass of a word (Table 19.7); an adverb counts once. -/
def classWeight (w : Word) : Nat :=
  let op := fOp w.toNat
  let fn := fFn w.toNat
  if op = 0x01 || op = 0x04 || op = 0x12 || op = 0x14 || op = 0x15 then 2
  else if op = 0x10 then (if fn < 8 then 2 else 1)
  else if op = 0x11 then (if fn < 8 then 3 else 1)
  else if op = 0x16 then 4
  else if op = 0x17 then (if fn = 7 || fn = 8 then 1 else 2)
  else if 0x18 ≤ op && op ≤ 0x25 then 2
  else if op = 0x26 then (if fn = 1 then 1 else 2)
  else if op = 0x27 then (if fn < 4 then 2 else 1)
  else 1

/-- The weight of the clause at an address (R385), some words long at most. -/
def State.clauseWeight (s : State) (c : Nat) (p1 : Bool) (warps : Nat) : Nat → DWord → Nat
  | 0, _ => 0
  | n + 1, pc =>
    match s.lookAt c pc p1 with
    | none => 0
    | some w =>
      if fOp w.toNat = 0x3F then 1 + (if bit w.toNat 0 then 0 else s.clauseWeight c p1 warps n (pc + 4))
      else classWeight w * max warps 1 + (if bit w.toNat 0 then 0 else s.clauseWeight c p1 warps n (pc + 4))

def Team.priority (t : Team) : Nat := if t.p1 then 4 else t.prio

/-- Whether the first of two ready teams of one datapath wins (R369); among equal ready times a team that yielded comes last
(R382). -/
def winsOver (a b : Nat × Team) : Bool :=
  let pa := decide (16 ≤ a.2.passOver)
  let pb := decide (16 ≤ b.2.passOver)
  if pa != pb then pa
  else if !pa && a.2.priority != b.2.priority then decide (b.2.priority < a.2.priority)
  else if a.2.readyAt != b.2.readyAt then decide (a.2.readyAt < b.2.readyAt)
  else if a.2.yielded != b.2.yielded then b.2.yielded
  else decide (a.1 ≤ b.1)

/-- The ready teams homed on a datapath. -/
def State.readyTeams (s : State) (c dp : Nat) : List (Nat × Team) :=
  (List.range 16).filterMap fun t =>
    if t % 4 = dp then (match s.team? c t with
      | some tm => if tm.status = .live then some (t, tm) else none
      | none => none)
    else none

def State.winner (s : State) (c dp : Nat) : Option (Nat × Team) :=
  (s.readyTeams c dp).foldl (fun (a : Option (Nat × Team)) p => match a with
    | none => some p
    | some q => if winsOver q p then some q else some p) none

/-- The trap that falls due at a team's clause boundary (R395), and the state in which it is delivered: first that of a word which
has issued already (R100, R426). At P1 only such a trap of the handler's own words, and the overflow of the fault entries that has
arisen there, do, and they kill the team; what stood at the handler's entry waits for the boundary after TRET (R122, R394, R395). -/
def State.boundaryTrap (s : State) (c t : Nat) (tm : Team) : Option (Trap × State) :=
  if tm.words != 0 || !tm.advs.isEmpty then none
  else match tm.lateTrap with
  | some x => some (x.1, s.setTeam c t x.2)
  | none => match decide (tm.ovfHeld < tm.overflow.length), tm.faults ++ tm.overflow with
  | true, e :: _ => some ({ e.trap .boundary true with entry := some 0 }, s)
  | _, _ =>
    if tm.p1 then none
    else if tm.wdogDue then
      some ({ cause := .watchdog, kind := .boundary }, s.setTeam c t { tm with wdogDue := false })
    else match s.block? c with
      | none => none
      | some b =>
        match b.seq.trap with
        | some k =>
          if s.trapTeam c b == some t then
            some ({ cause := k.cause, kind := .sequencer, arg := k.arg, addr := k.faddr, xfault := k.xfault },
              s.modBlock c fun b => { b with seq := { b.seq with trap := some { k with taken := true } } })
          else none
        | none => none

/-- Wait cause 10 ends with the delivery of the sequencer trap (R372, R418). -/
def State.seqShown (s : State) (c t : Nat) : State :=
  match s.team? c t with
  | some tm => if tm.seqDue then (s.setTeam c t { tm with seqDue := false }).emitWait c t seqWait true else s
  | none => s

/-- The boundary trap delivered, once the queues it empties are. A sequencer trap that no handler takes ends every team of the
block (R277). -/
def State.deliver (s : State) (c t : Nat) (k : Trap) (s' : State) : State :=
  if k.kind = .sequencer && s.tvec c = 0 then
    match s.block? c, s.drainBlock c with
    | some b, some s =>
      ((s.seqShown c t).emitTrap c t k.cause k.defer 4 b.seq.pc).killBlockTeams c 3 k.cause b.seq.pc ((b.seq.trap.map (·.addr)).getD 0)
    | _, _ => s
  else ((if k.kind = .sequencer then s'.seqShown c t else s').raise? c t k).getD s

/-- The team wins: it holds its datapath, and its clause issues once its request for the clause's weight has been served, in
its place among the cycle's requests (R387, R388). -/
def State.grantDp (s : State) (c dp t : Nat) (tm : Team) : State :=
  let w := s.clauseWeight c tm.p1 tm.warps.length Config.clauseWords tm.pc
  let s := (s.readyTeams c dp).foldl (fun s p =>
    s.modTeam c p.1 fun u => { u with
      passOver := if p.1 = t then 0 else u.passOver + 1
      yielded := if p.1 = t then false else u.yielded }) s
  s.modCore c fun x => { x with dps := PMap.set x.dps dp ⟨some t, some w, 0⟩ }

/-- A trap due at the boundary of some team of the datapath. -/
def State.dueTrap (s : State) (c dp : Nat) : Option (Nat × Trap × State) :=
  (s.readyTeams c dp).findSome? fun p => (s.boundaryTrap c p.1 p.2).map fun (k : Trap × State) => (p.1, k)

/-- ARBITRATION of an idle datapath: stops at safe points, then a trap due at a boundary, then the choice. -/
def execArbitration (core dp : Nat) (s : State) : Host.Outcome State Fault Refusal :=
  .next (
    let idle := match PMap.get? (s.core core).dps dp with
      | some d => d.holder.isNone
      | none => true
    if !idle || 4 ≤ dp then s
    else
      let s := s.stopTeams core
      match s.dueTrap core dp with
      | some (t, k, s') => s.deliver core t k s'
      | none => match s.winner core dp with
        | none => s
        | some (t, tm) => s.grantDp core dp t tm)

/-! The allowance (R384, R386 to R388). -/

/-- A request on ALLOW: the engine, or the winner a datapath holds back. -/
structure Request where
  prio : Nat
  dp : Option Nat
  units : Nat
  deriving DecidableEq, Repr

/-- Requests in the order of R387, by insertion. -/
def Request.before (a b : Request) : Bool :=
  if a.prio != b.prio then decide (b.prio < a.prio)
  else match a.dp, b.dp with
    | none, _ => true
    | some _, none => false
    | some x, some y => decide (x ≤ y)

def insertRequest (r : Request) : List Request → List Request
  | [] => [r]
  | x :: l => if r.before x then r :: x :: l else x :: insertRequest r l

/-- The requests of a core in this cycle; the engine of a block that stops makes none at its boundary (R279). -/
def State.requests (s : State) (c : Nat) (b : Block) : List Request :=
  let eng : List Request := match b.seq.engine with
    | some e => if b.stopping && e.boundary.isSome then [] else match trimDraws e.draws with
      | (_, u) :: _ => [⟨((PMap.get? s.launches b.launch).map (·.prio)).getD 0, none, u⟩]
      | [] => []
    | none => []
  let dps : List Request := (s.core c).dps.filterMap fun p => match p.2.holder, p.2.withheld with
    | some t, some w => some ⟨((s.team? c t).map Team.priority).getD 0, some p.1, w⟩
    | _, _ => none
  (eng ++ dps).foldl (fun l r => insertRequest r l) []

/-- One cycle of the engine's occupancy. -/
def Engine.tick (e : Engine) : Engine :=
  { e with draws := match trimDraws e.draws with
    | (n + 1, u) :: r => trimDraws ((n, u) :: r)
    | l => l }

/-- One cycle more in which a datapath's request is not met. -/
def State.withhold (s : State) (c : Nat) (r : Request) : State :=
  match r.dp with
  | none => s
  | some dp => s.modCore c fun x => { x with dps := PMap.modify x.dps dp fun d => { d with stall := d.stall + 1 } }

/-- A request served where ALLOW covers it; the winner's clause then issues. -/
def State.serve (s : State) (c : Nat) (r : Request) : State :=
  if (s.core c).allow < r.units then s.withhold c r
  else
    let s := s.modCore c fun x => { x with allow := x.allow - r.units }
    match r.dp with
    | none => s.modBlock c fun b => { b with seq := { b.seq with engine := b.seq.engine.map Engine.tick } }
    | some dp => s.endStall c dp

/-- One core's cycle: RATE on ALLOW, whether or not a block runs there (R384), then the requests. -/
def State.replenish (s : State) (c : Nat) : State :=
  let s := s.modCore c fun x => { x with allow := min (s.capOf c) (x.allow + s.rateOf c) }
  match s.block? c with
  | none => s
  | some b =>
    let s := s.modBlock c fun b => { b with seq := { b.seq with engine := b.seq.engine.map fun (e : Engine) => { e with draws := trimDraws e.draws } } }
    (s.requests c b).foldl (fun s r => s.serve c r) s

/-- ALLOWANCE_REPLENISH: the next cycle of the arithmetic clock. -/
def execAllowanceReplenish (s : State) : Host.Outcome State Fault Refusal :=
  .next (let s := { s with cycle := s.cycle + 1 }
    (List.range Config.cores).foldl State.replenish s)

/-! Longshore (R353, R357, R358). -/

/-- The iterations a team could still give away. -/
def Team.remaining (t : Team) : Nat := t.rangeEnd.toNat - t.rangeNext.toNat

/-- The teams Longshore may choose for a core's launch on its die, in core and team order. -/
def State.donors (s : State) (c launch : Nat) : List (Nat × Nat) :=
  s.teams.filterMap fun p =>
    let core := p.1 / 16
    if coreDie core = coreDie c && ((s.block? core).map (·.launch)) = some launch &&
      (p.2.status == .live || p.2.status == .parked) && decide (2 ≤ p.2.remaining)
    then some (p.1, p.2.remaining) else none

/-- The donor of the largest remaining range, the lowest core and team among equals. -/
def State.donor (s : State) (c launch : Nat) : Option Nat :=
  ((s.donors c launch).foldl (fun (a : Option (Nat × Nat)) p => match a with
    | none => some p
    | some q => if q.2 < p.2 then some p else some q) none).map (·.1)

/-- A donor that can no longer draw: its requester is asked for again. -/
def State.lostDonors (s : State) (die : Nat) : State :=
  s.cores.foldl (fun s p => match p.2.shore with
    | .donor k =>
      let gone := match PMap.get? s.teams k with
        | some tm => tm.status != .live && tm.status != .parked
        | none => true
      if coreDie p.1 = die && gone then s.shoreAgain p.1 else s
    | _ => s) s

/-- A request of the die is being served. -/
def State.shoreBusy (s : State) (die : Nat) : Bool :=
  s.cores.any fun p => coreDie p.1 = die && (match p.2.shore with | .donor _ => true | _ => false)

/-- LONGSHORE_REQUEST: a request of the die is given a donor, or answered "none". DESIGN CHOICE (entry 80): the oldest. -/
def execLongshoreRequest (die : Nat) (s : State) : Host.Outcome State Fault Refusal :=
  .next (
    let s := s.lostDonors die
    if s.shoreBusy die then s
    else match (PMap.get? s.shoreQ die).getD [] with
    | [] => s
    | c :: r =>
      let s := { s with shoreQ := PMap.set s.shoreQ die r }
      match s.block? c with
      | none => s
      | some b =>
        s.modCore c fun x => { x with shore := match s.donor c b.launch with
          | some k => .donor k
          | none => .none })

/-- The teams of a core that wait for Longshore. -/
def State.rangeWaiters (s : State) (c : Nat) : List Nat :=
  (List.range 16).filter fun t => match s.team? c t with
    | some tm => tm.status == .parked && tm.wait.cause == .range
    | none => false

/-- A team's watchdog timer put back where it stood: no clause of the team has completed meanwhile (R410). -/
def State.timerOf (s : State) (c t : Nat) (old : Option Team) : State :=
  match old with
  | some o => s.modTeam c t fun tm => { tm with wdogFrom := o.wdogFrom, wdogElapsed := o.wdogElapsed }
  | none => s

/-- A waiting team draws on; after "none" its first lane has drawn nothing. Its timer runs on, and what it still replays holds
it (R410, R123). -/
def State.shoreTeam (s : State) (none_ : Bool) (c t : Nat) : State :=
  let old := s.team? c t
  let s := s.wake c t
  let s := if none_ then
      (match (s.team? c t).bind fun tm => frameOf tm.stack with
       | some f => match f.toDraw with
         | l :: _ => s.drawNone c t l
         | [] => s
       | none => s) else s
  ((s.drawGo c t).timerOf c t old).holdReplay c t

/-- LONGSHORE_ANSWER: a task or "none" has reached the core. -/
def execLongshoreAnswer (core : Nat) (s : State) : Host.Outcome State Fault Refusal :=
  .next (
    let sh := (s.core core).shore
    let go (none_ : Bool) : State :=
      let ws := s.rangeWaiters core
      ws.foldl (fun s t => s.shoreTeam none_ core t) (s.modCore core fun x => { x with shore := .idle })
    match sh with
    | .given => go false
    | .none => go true
    | _ => s)

/-! A context kill by firmware (R404, R411, R428). -/

/-- Every block of the context ended, with a KIND 3 report on every session whose grant names it. -/
def State.killContext (s : State) (ctx : Nat) (cause : Cause) : State :=
  let s := s.killCtx ctx
  s.sessions.foldl (fun s p =>
    if grantNames p.2.grant ctx then
      s.send (.report p.1 0 ctx 0 0 [0, 3, BitVec.ofNat 32 (ctx % 256 + 2 ^ 24 * cause.code), 0])
    else s) s

end Sys2Proof.Machine
end

