-- ==== Sys2Proof/Machine/MemEvents.lean ====
section
/-! DEFINITION. The stacks' controllers and the walkers: completions, corrected and uncorrectable errors and
their records, the patrol scrub, remapped rows, refresh, and the end of a table walk (R64 to R76, R118, R122,
R427). -/

namespace Sys2Proof.Machine

/-! Completions (R67, R68, R71, R74). -/

/-- A sector's row is being copied to a spare row (R75). -/
def State.remapping (s : State) (sector : Nat) : Bool :=
  s.remaps.any fun r => r.stack == stackOf (64 * sector) && r.row == rowOf sector && !r.copied

/-- HBM_COMPLETION: the request of a tag is performed, and those that waited for it or for a tag are issued. -/
def execHbmCompletion (stack tag : Nat) (r : EccResult) (s : State) : Host.Outcome State Fault Refusal :=
  .next (match s.hbmReqs.find? fun q => q.stack == stack && q.tag == tag with
    | none => s
    | some q =>
      if s.remapping q.sector then s
      else (({ s with hbmReqs := s.hbmReqs.erase q } : State).hbmServe q r).hbmPump)

/-- A sector that the L2 holds whole keeps its contents there when the stack's copy is found uncorrectable: the mark is
the stack's alone (R74). -/
def State.keepClean (s : State) (sector : Nat) (r : EccResult) : State :=
  if r = .uncorrectable && s.l2Has sector && !s.poison.contains sector && !s.l2Whole.contains sector then
    { s with l2Whole := sector :: s.l2Whole }
  else s

/-- PATROL_SCRUB of a sector outside the free rows. -/
def execPatrolScrub (sector : Nat) (r : EccResult) (s : State) : Host.Outcome State Fault Refusal :=
  .next (if !s.ready || decide (Config.maxPA < 64 * sector) || s.freeRows.contains (rowKey (64 * sector)) then s
    else (s.keepClean sector r).eccRead sector 1 r)

/-- REFRESH changes timing only (R69, R70). -/
def execRefresh (_stack _bank : Nat) (s : State) : Host.Outcome State Fault Refusal := .next s

/-! Lasting errors (R75, R427). -/

/-- The first sector of a row of a stack, which stands for the row in a record. DESIGN CHOICE (entry 19): SEG of a record that
concerns a whole row is 0; R76 gives none. -/
def rowSector (stack row : Nat) : Nat :=
  let low := row / 64 * 2 ^ 19 + row / 2 % 32 * 2 ^ 14 + row % 2 * 2 ^ 10
  (low + (bits low 19 3 ^^^ stack % 8) * 2 ^ 11) / 64

/-- A row declared lasting taken up: its copy to a spare row begins. DESIGN CHOICE (entry 19): where its bank has no spare
row left, a KIND 4 record is written and the row stays in service; the spec names KIND 4 with an uncorrectable error
only. -/
def State.lastingRow (s : State) (stack row : Nat) : State :=
  let s := { s with declared := s.declared.filter (· != (stack, row)) }
  if s.remaps.any (fun r => r.stack == stack && r.row == row && !r.copied) then s
  else if s.spareless stack row then s.putRecord (rowSector stack row) 4
  else { s with
    remaps := (s.remaps.filter fun r => r.stack != stack || r.row != row) ++ [⟨stack, row, false⟩]
    spareRows := PMap.set s.spareRows (bankKey stack row) (s.sparesUsed stack row + 1) }

/-- A pool bank declared lasting taken up: replaced at the next block start, or the core is withdrawn, and a block that
runs on it is pre-empted as R37 has it (R36, R427). -/
def State.lastingPool (s : State) (c bank : Nat) : State :=
  let s := { s with poolDeclared := s.poolDeclared.filter (· != (c, bank)) }
  let x := s.core c
  if x.lastingBanks.length < x.spares then s.setCore c { x with lastingBanks := x.lastingBanks ++ [bank] }
  else
    let s := s.setCore c { x with withdrawn := true }
    ({ s with part := PMap.modify s.part c fun e => e &&& 0x00FF } : State).askStop c true

/-- ROW_DECLARED_LASTING: what a third error within 24 hours has declared. Rows are copied by a device that is ready
alone (R421). -/
def execRowDeclaredLasting (a : LastingAt) (s : State) : Host.Outcome State Fault Refusal :=
  .next (match a with
    | .row stack row => if s.ready && s.declared.contains (stack, row) then s.lastingRow stack row else s
    | .pool c => match s.poolDeclared.find? (·.1 == c) with
      | some k => s.lastingPool c k.2
      | none => s)

/-- REMAP_COPY_DONE: the mapping switches; the row's errors begin to count anew. DESIGN CHOICE (entry 19): COUNT of the KIND 3
record is that of the row's window before it begins anew; R76 does not say. -/
def execRemapCopyDone (stack row : Nat) (s : State) : Host.Outcome State Fault Refusal :=
  .next (if s.ready && s.remaps.any fun r => r.stack == stack && r.row == row && !r.copied then
      let s := { s with remaps := s.remaps.map fun (r : Remap) =>
        if r.stack = stack && r.row = row then { r with copied := true } else r }
      let s := s.putRecord (rowSector stack row) 3
      { s with errWindow := PMap.del s.errWindow (winKey stack row) }
    else s)

/-! The end of a walk (R118, R122). -/

/-- The lanes of one pass that wait for a page's walk. -/
def OutPass.waiters (p : OutPass) (page : Nat) : List LaneReq := p.lanes.filter (·.waitsFor page)

/-- One waiting lane given the walk's result. -/
def State.walkLane (s : State) (r : WalkRes) (c t : Nat) (p : OutPass) (l : LaneReq) : State :=
  match r with
  | .error f => s.failLane c t p l false f.cause (xfaultWord f.kind .read f.level 0)
  | .ok e =>
    match s.leafAccess e l.va .read p.p1 with
    | .ok pa => (s.modTeam c t fun tm => (tm.modLane p.id l.lane fun x => { x with pa := some pa }).closePass p.id 1024).loadAsk c pa
    | .error (cause, xf) => s.failLane c t p l false cause xf

/-- A team's waiting lanes given the walk's result. -/
def State.walkTeam (s : State) (r : WalkRes) (page c t : Nat) : State :=
  match s.team? c t with
  | none => s
  | some tm => tm.out.foldl (fun s p => (p.waiters page).foldl (fun s l => s.walkLane r c t p l) s) s

/-- The cores of a context with a lane that waits for a page. -/
def State.walkCores (s : State) (ctx page : Nat) : List Nat :=
  (s.blocks.filter fun b => b.2.ctx == ctx && (List.range 16).any fun t => match s.team? b.1 t with
    | some tm => tm.out.any fun p => !(p.waiters page).isEmpty
    | none => false).map (·.1)

/-- The result of a walk in flight: the one a miss that joined it has needed already, else that of its walker now. -/
def State.walkEnd (s : State) (w : Walk) : State × WalkRes :=
  match w.res with
  | some e => (s, .ok e)
  | none => s.walkBy w.core w.walker w.ctx (w.page * 2 ^ 16)

/-- TABLE_WALK_DONE: the k-th walk in flight ends and serves every lane that waits for its page. -/
def execTableWalkDone (k : Nat) (s : State) : Host.Outcome State Fault Refusal :=
  .next (match s.walks[k]? with
    | none => s
    | some w =>
      match ({ s with walks := listDrop s.walks k } : State).walkEnd w with
      | (s, r) =>
        let cores := s.walkCores w.ctx w.page
        let s := match r with
          | .ok e => (cores.filter (· != w.core)).foldl (fun (s : State) c => s.tlbFill c e) s
          | .error _ => s
        (cores.foldl (fun (s : State) c => (List.range 16).foldl (fun s t => s.walkTeam r w.page c t) s) s).settle)

end Sys2Proof.Machine
end

