-- ==== Sys2Proof/Machine/Matrix.lean ====
section
/-! DEFINITION. The matrix-stream words: scalar words, loops, barriers, engine words, and the completion of an
engine instruction (R250 to R280, R281 to R294). -/

namespace Sys2Proof.Machine

/-! Scalar words (R254 to R256, R268, R269). -/

/-- b of R254. -/
def Sequencer.mB (q : Sequencer) (f : MOp) : Word := if f.i then f.b.setWidth 32 else q.mreg f.b.toNat

def State.scalarOp (s : State) (i : Instr) (f : MOp) (g : Word → Word → Word) : Host.Outcome State Fault Refusal :=
  s.seqScalar i f.z fun q => q.setM f.d.toNat (g (q.mreg f.a.toNat) (q.mB f))

def execMadd (f : MOp) (s : State) := s.scalarOp (.madd f) f (· + ·)
def execMsub (f : MOp) (s : State) := s.scalarOp (.msub f) f (· - ·)
def execMmul (f : MOp) (s : State) := s.scalarOp (.mmul f) f (· * ·)
def execMand (f : MOp) (s : State) := s.scalarOp (.mand f) f (· &&& ·)
def execMor (f : MOp) (s : State) := s.scalarOp (.mor f) f (· ||| ·)
def execMxor (f : MOp) (s : State) := s.scalarOp (.mxor f) f (· ^^^ ·)
def execMshl (f : MOp) (s : State) := s.scalarOp (.mshl f) f fun a b => a <<< (b.toNat % 32)
def execMshr (f : MOp) (s : State) := s.scalarOp (.mshr f) f fun a b => a >>> (b.toNat % 32)
def execMmin (f : MOp) (s : State) := s.scalarOp (.mmin f) f fun a b => if a.slt b then a else b
def execMmax (f : MOp) (s : State) := s.scalarOp (.mmax f) f fun a b => if a.slt b then b else a

/-- MLI (R255). -/
def execMli (d : BitVec 5) (imm : BitVec 12) (z : Bool) (s : State) :=
  s.seqScalar (.mli d imm z) z fun q => q.setM d.toNat (imm.setWidth 32)

/-- MLI.M: bits 23 to 12. -/
def execMliM (d : BitVec 5) (imm : BitVec 12) (z : Bool) (s : State) :=
  s.seqScalar (.mliM d imm z) z fun q =>
    let x := q.mreg d.toNat
    q.setM d.toNat ((x.extractLsb' 24 8 ++ imm ++ x.extractLsb' 0 12).setWidth 32)

/-- MLI.T: bits 31 to 24. -/
def execMliT (d : BitVec 5) (imm : BitVec 8) (z : Bool) (s : State) :=
  s.seqScalar (.mliT d imm z) z fun q => q.setM d.toNat ((imm ++ (q.mreg d.toNat).extractLsb' 0 24).setWidth 32)

/-- MMOV's source (R256). -/
def Sequencer.source (q : Sequencer) (a : Nat) : MSrc → Word
  | .m => q.mreg a
  | .sd => q.sdreg a
  | .lc => (q.lcreg a).setWidth 32
  | .eng => if a = 0 then q.wbase else BitVec.ofNat 32 q.period

def execMmov (d : BitVec 5) (a : BitVec 6) (src : MSrc) (z : Bool) (s : State) :=
  s.seqScalar (.mmov d a src z) z fun q => q.setM d.toNat (q.source a.toNat src)

/-- MSETSD: nothing is checked. -/
def execMsetsd (n : BitVec 3) (a : BitVec 5) (z : Bool) (s : State) :=
  s.seqScalar (.msetsd n a z) z fun q => { q with sd := PMap.set q.sd n.toNat (q.mreg a.toNat) }

def execBfw (a : BitVec 5) (z : Bool) (s : State) :=
  s.seqScalar (.bfw a z) z fun q => { q with wbase := q.mreg a.toNat }

def execBfp (p : BitVec 6) (z : Bool) (s : State) :=
  s.seqScalar (.bfp p z) z fun q => { q with period := p.toNat + 1 }

/-! Loops (R257, R258). -/

/-- MLOOP: none where it is illegal. With count 0 the body is passed over. -/
def Sequencer.loop (q : Sequencer) (n a off : Nat) : Option Sequencer :=
  let c := (q.mreg a).toNat
  let last := q.pc + BitVec.ofNat 64 (4 * off)
  if c > 65535 || off = 0 || decide (4 ≤ q.loops.length) || q.loops.any (·.ctr == n) ||
    ((q.loops.head?.map fun t => decide (t.last.toNat < last.toNat)).getD false) then none
  else if c = 0 then some { q with pc := last }
  else some { q with lc := PMap.set q.lc n (BitVec.ofNat 16 c), loops := ⟨n, q.pc + 4, last⟩ :: q.loops }

def execMloop (n : BitVec 2) (a : BitVec 5) (off : BitVec 10) (z : Bool) (s : State) : Host.Outcome State Fault Refusal :=
  s.seqIssue (.mloop n a off z) z fun c b s =>
    match b.seq.loop n.toNat a.toNat off.toNat with
    | none => .trap .illegalInstruction 0 0
    | some q => .done (s.modSeq c fun _ => q)

/-! Barriers (R259, R260, R380, R431). -/

/-- The barrier counts the sequencer. -/
def Block.seqBar (b : Block) (nb : Nat) : Bool := ((PMap.get? b.bars nb).map fun x => x.scope == .blockSeq).getD false

/-- The sequencer's pending arrival belongs to a phase not yet complete. -/
def Block.seqPend (b : Block) (nb : Nat) : Bool :=
  match PMap.get? b.bars nb, PMap.get? b.seq.pend nb with
  | some x, some p => p == x.phase
  | _, _ => false

/-- The wait for a phase: the sequencer is parked, or the phase cannot complete. -/
def State.seqPark (s : State) (c nb : Nat) : SeqAct :=
  if s.canComplete c nb then .wait (s.modSeq c fun q => { q with parked := true })
  else .trap .barrierMismatch nb 0

/-- MBAR: it waits for the engine, then for the phase of an arrival still pending, then arrives. -/
def execMbar (nb : BitVec 6) (z : Bool) (s : State) : Host.Outcome State Fault Refusal :=
  s.seqIssue (.mbar nb z) z fun c b s =>
    let n := nb.toNat
    if !b.seqBar n then .trap .barrierMismatch n 0
    else if b.seq.engine.isSome then .wait s
    else if b.seqPend n then s.seqPark c n
    else
      let p := ((PMap.get? b.bars n).map (·.phase)).getD 0
      .done ((s.modSeq c fun q => { q with pend := PMap.set q.pend n p }).barrierArrive c n)

/-- MWAIT: it completes at once where nothing is pending, else with the phase of the arrival. -/
def execMwait (nb : BitVec 6) (z : Bool) (s : State) : Host.Outcome State Fault Refusal :=
  s.seqIssue (.mwait nb z) z fun c b s =>
    let n := nb.toNat
    if !b.seqBar n then .trap .barrierMismatch n 0
    else if b.seqPend n then s.seqPark c n
    else .done (s.modSeq c fun q => { q with pend := PMap.del q.pend n })

/-! Engine words (R252, R264, R271). -/

/-- Why an engine word is turned away (R271): its cause, and what MSQADDR shows. -/
structure EngBad where
  cause : Cause
  addr : Nat
  deriving DecidableEq, Repr

/-- The lowest byte out of range that rows of a length touch: `count` rows from a base on, a pitch apart. -/
def outOfRange (limit base pitch len count : Nat) : Option Nat :=
  if limit < base + len then some (max base limit)
  else if pitch = 0 then none
  else
    let v := (limit - base - len) / pitch + 1
    if v < count then some (max (base + v * pitch) limit) else none

/-- The checks after the first (R271): a value that is no multiple of 16, then the lowest address out of range. -/
def engChecks (aligned : List Word) (bounds : List (Option Nat)) (op : EngineOp) : Except EngBad EngineOp :=
  match aligned.find? fun w => w.toNat % 16 != 0 with
  | some w => .error ⟨.misaligned, w.toNat⟩
  | none => match bounds.filterMap id with
    | [] => .ok op
    | x :: r => .error ⟨.engineBound, r.foldl min x⟩

def engIllegal : EngBad := ⟨.illegalInstruction, 0⟩

/-- An engine word issues after the one before it has completed; it captures its operands (R252). -/
def State.engineIssue (s : State) (i : Instr) (z : Bool) (g : Block → Except EngBad EngineOp) :
    Host.Outcome State Fault Refusal :=
  if s.seqReady s.cur.core && (((s.block? s.cur.core).map fun b => b.seq.engine.isSome).getD false) then .next s
  else s.seqIssue i z fun c b s =>
    match g b with
    | .error e => .trap e.cause 0 e.addr
    | .ok op => .done (s.modSeq c fun q => { q with engine := some (Engine.mk q.pc op 0 (op.issueDraw :: op.drawsFrom 0)) })

/-- Stage j, none where its descriptor is reserved (Table 14.9). -/
def Sequencer.stage (q : Sequencer) (n j : Nat) : Option Stage :=
  let x := bits (q.sdreg (j / 2)).toNat (16 * (j % 2)) 16
  let r := 2 ^ (bits x 0 2 + 1)
  let st := 2 ^ bits x 4 4
  if bits x 8 8 != 0 || bits x 2 2 != 0 || bits x 4 4 ≥ 12 || r * st > n then none else some ⟨r, st⟩

/-- A power of two from 16 to 4,096. -/
def vecLen (n : Nat) : Bool := decide (16 ≤ n) && decide (n ≤ 4096) && n == 2 ^ Nat.log2 n

/-- The operands of BFS and BFCH, checked. -/
def Block.bfOp (b : Block) (f : BfF) (js : List Nat) : Except EngBad EngineOp :=
  let q := b.seq
  let sh := (q.mreg f.d.toNat).toNat
  let n := bits sh 0 13
  let v := bits sh 16 16
  let a (k : Nat) : Word := q.mreg (f.a.toNat + k)
  match js.mapM (q.stage n) with
  | none => .error engIllegal
  | some st =>
    if !vecLen n || bits sh 13 3 != 0 || v = 0 then .error engIllegal
    else
      let out := if f.yf = .acc then b.accBytes else b.spBytes
      engChecks [a 0, a 1, a 2, a 3, q.wbase]
        ([outOfRange b.spBytes (a 0).toNat (a 1).toNat (engRowBytes f.xf n) v,
          outOfRange out (a 2).toNat (a 3).toNat (n * yfBytes f.yf) v] ++
         (regions f.xf n q.wbase.toNat st).map fun (p : Stage × Nat) => outOfRange b.spBytes p.2 0 (weightBytes f.xf n p.1) 1)
        (.bf n v st (a 0).toNat (a 1).toNat (a 2).toNat (a 3).toNat q.wbase.toNat f.xf f.yf f.rnd)

/-- BFS: stage B. -/
def execBfs (f : BfF) (s : State) := s.engineIssue (.bfs f) f.z fun b => b.bfOp f [f.b.toNat]

/-- BFCH: stages 0 to B - 1. -/
def execBfch (f : BfF) (s : State) := s.engineIssue (.bfch f) f.z fun b => b.bfOp f (List.range f.b.toNat)

/-- A multiple of 16 from 16 to 4,096. -/
def tileLen (n : Nat) : Bool := n % 16 == 0 && decide (16 ≤ n) && decide (n ≤ 4096)

/-- The operands of BFT (R272). -/
def Block.bftOp (b : Block) (d a bb : Nat) (xf : XFmt) (set : Bool) : Except EngBad EngineOp :=
  let q := b.seq
  let m := bits (q.mreg d).toNat 0 16
  let n := bits (q.mreg d).toNat 16 16
  let k := bits (q.mreg (d + 1)).toNat 0 16
  let r (i : Nat) : Word := q.mreg (a + i)
  if !tileLen m || !tileLen n || !tileLen k || bits (q.mreg (d + 1)).toNat 16 16 != 0 then .error engIllegal
  else
    engChecks [r 0, r 1, r 2, r 3, q.wbase, q.mreg bb]
      [outOfRange b.spBytes (r 0).toNat (r 1).toNat (engRowBytes xf k) m,
       outOfRange b.accBytes (r 2).toNat (r 3).toNat (4 * n) m,
       outOfRange b.spBytes q.wbase.toNat (q.mreg bb).toNat (engRowBytes xf n) k]
      (.bft m n k (r 0).toNat (r 1).toNat (r 2).toNat (r 3).toNat q.wbase.toNat (q.mreg bb).toNat q.period xf set)

def execBft (d a b : BitVec 5) (xf : XFmt) (set : Bool) (z : Bool) (s : State) :=
  s.engineIssue (.bft d a b xf set z) z fun k => k.bftOp d.toNat a.toNat b.toNat xf set

/-- The operands of MCOPY (R274). -/
def Block.mcopyOp (b : Block) (d a n : Nat) (dir : MDir) : Except EngBad EngineOp :=
  let q := b.seq
  let len := (q.mreg n).toNat
  let src := if dir = .sa || dir = .ss then b.spBytes else b.accBytes
  let dst := if dir = .as || dir = .ss then b.spBytes else b.accBytes
  if len % 16 != 0 || len = 0 then .error engIllegal
  else
    engChecks [q.mreg a, q.mreg d]
      [outOfRange src (q.mreg a).toNat 0 len 1, outOfRange dst (q.mreg d).toNat 0 len 1]
      (.mcopy dir (q.mreg a).toNat (q.mreg d).toNat len)

def execMcopy (d a b : BitVec 5) (dir : MDir) (z : Bool) (s : State) :=
  s.engineIssue (.mcopy d a b dir z) z fun k => k.mcopyOp d.toNat a.toNat b.toNat dir

/-- The lowest address out of range in an extent from a base to the last byte of its last row (R284). -/
def extentOut (limit base pitch rows len : Nat) : Option Nat :=
  if limit < base + (rows - 1) * pitch + len then some (max base limit) else none

/-- The operands of SSCAN (R283, R284). -/
def Block.sscanOp (b : Block) (d a h : Nat) (f16 : Bool) (yf : YFmt) (qc : Nat) : Except EngBad EngineOp :=
  let q := b.seq
  let sh := (q.mreg d).toNat
  let sh1 := (q.mreg (d + 1)).toNat
  let l := bits sh 0 17
  let p := bits sh1 0 9
  let n := bits sh1 16 9
  let r (i : Nat) : Word := q.mreg (a + i)
  let at_ (i : Nat) : Nat := (r i).toNat
  let hb := q.mreg h
  let sp := b.spBytes
  if bits sh 17 15 != 0 || l = 0 || l > 65536 || p = 0 || p > 256 || n = 0 || n > 256 || bits sh1 9 7 != 0 ||
    bits sh1 25 7 != 0 then .error engIllegal
  else
    engChecks [r 0, r 1, r 2, r 3, r 4, r 5, r 6, r 7, hb]
      [extentOut sp (at_ 0) (at_ 1) l (2 * p), extentOut sp (at_ 2) (at_ 4) l (2 * n), extentOut sp (at_ 3) (at_ 4) l (2 * n),
       extentOut sp (at_ 5) (at_ 6) l (p * yfBytes yf), extentOut sp (at_ 7) 4 l 4,
       extentOut b.accBytes hb.toNat (16 * ((n + 3) / 4)) p (4 * n)]
      (.sscan l p n (16 * 2 ^ qc) (at_ 0) (at_ 1) (at_ 2) (at_ 3) (at_ 4) (at_ 5) (at_ 6) (at_ 7) hb.toNat f16 yf)

def execSscan (d a b : BitVec 5) (f16 : Bool) (yf : YFmt) (qc : BitVec 2) (z : Bool) (s : State) :=
  s.engineIssue (.sscan d a b f16 yf qc z) z fun k => k.sscanOp d.toNat a.toNat b.toNat f16 yf qc.toNat

/-! Completion (R250, R252, R279). -/

/-- Some parts of the engine instruction performed: it has completed after the last, and a stream that has ended
lets the sequencer end. -/
def Block.engineRun (b : Block) (seed n : Nat) : Block :=
  match b.seq.engine with
  | none => b
  | some e =>
    let todo := min n (e.op.parts - e.next)
    let b := e.op.run seed todo e.next b
    if e.op.parts ≤ e.next + todo then { b with seq := { b.seq with engine := none, ended := b.seq.ended || b.seq.last } }
    else { b with seq := { b.seq with engine := some { e with next := e.next + todo, draws := e.op.drawsFrom (e.next + todo) } } }

/-- The block ends where an engine instruction reads a pool word that cannot be corrected, once its teams' queues are empty
(R426, R330). -/
def State.engineKill (s : State) (c : Nat) (e : Engine) : State :=
  match s.drainBlock c with
  | none => s
  | some s => (s.modSeq c fun q => { q with engine := none }).killBlockTeams c 0 .poisonedData e.pc 0

/-- ENGINE_INSTRUCTION_COMPLETE: once its occupancy is over, every write of the instruction is performed; one that
reads a pool word that cannot be corrected ends the block (R426). -/
def execEngineInstructionComplete (core : Nat) (s : State) : Host.Outcome State Fault Refusal :=
  .next (match s.block? core with
    | none => s
    | some b =>
      match b.seq.engine with
      | none => s
      | some e =>
        if !e.draws.isEmpty then s
        else if e.op.upset b then s.engineKill core e
        else ((s.tick).modBlock core fun b => b.engineRun s.fresh e.op.parts).settle)

end Sys2Proof.Machine
end

