-- ==== Sys2Proof/Machine/Preempt.lean ====
section
/-! DEFINITION. Pre-emption, save and restore of a block, and the watchdog (R174, R279, R280, R358, R381,
R406 to R411, R426). -/

namespace Sys2Proof.Machine

/-! The request (R406, R408). -/

/-- PREEMPT_REQUEST: firmware ends the time slice of a core's block. -/
def execPreemptRequest (core : Nat) (s : State) : Host.Outcome State Fault Refusal :=
  .next ((s.askStop core false).stopTeams core)

/-- PREEMPT_FORCE_TIMEOUT: 1 ms after the request the team stops at its next clause boundary, wherever it runs. -/
def execPreemptForceTimeout (core team : Nat) (s : State) : Host.Outcome State Fault Refusal :=
  .next (match s.block? core with
    | none => s
    | some b =>
      if b.stopping && decide (b.stopAt + Config.cyclesPerMs ≤ s.cycle) then
        (s.modTeam core team fun tm => if tm.stopReq then { tm with saveAll := true } else tm).stopTeams core
      else s)

/-! The save (R406, R407). -/

/-- Nothing of a team is on its way. -/
def Team.quiet (t : Team) : Bool :=
  t.sq.isEmpty && t.out.isEmpty && t.atoms.isEmpty && t.wld.isEmpty && t.colls.isEmpty

/-- Every team has stopped or ended, and the block has drained. -/
def State.saveReady (s : State) (c : Nat) (b : Block) : Bool :=
  ((List.range 16).all fun t => match s.team? c t with
    | some tm => tm.quiet && (tm.status == .stopped || tm.status == .exited || tm.status == .killed)
    | none => true) &&
  (s.core c).order.isEmpty && !(s.remote.any fun r => r.what.core == c) && !(s.xinvs.any fun x => x.core == c) &&
  b.copies.all fun x => x.underWay.isEmpty && x.iwait == 0

/-- The live mask with which a team is saved: none where every register is saved. -/
def Team.saveMask (t : Team) (r : KernelRec) : Option (List Word) :=
  if t.saveAll || t.status != .stopped then none else r.safeAt t.pc

/-- A key of the lane registers is saved. -/
def Team.savesKey (t : Team) (m : Option (List Word)) (k : Nat) : Bool :=
  match m with
  | none => true
  | some m => decide (t.allot ≤ k % 1024) || maskBit m (k % 1024)

/-- Masks taken together. -/
def maskAnd (a b : List Word) : List Word := (List.range 8).map fun i => a.getD i 0 &&& b.getD i 0

/-- A team as the save area keeps it: dead registers are not defined any more (Table 11.1). -/
def Team.save (t : Team) (m : Option (List Word)) (cycle seed : Nat) : Team :=
  { t with
    v := t.v.filter fun p => t.savesKey m p.1
    dead := match m, t.dead with
      | none, d => d
      | some m, none => some (seed, m)
      | some m, some d => some (seed, maskAnd m d.2)
    stopReq := false, saveAll := false
    wdogElapsed := match t.wdog2From with
      | some f => cycle - f
      | none => t.wdogElapsed + (cycle - t.wdogFrom) }

/-- A copy as the save area keeps it (R174): the batches are read again from that of the next row, and until then the entries
read before say which lines it keeps absent (R134). -/
def Copy.save (x : Copy) : Copy :=
  { x with
    batch := x.pending.headD x.rows / 8
    ibuf := [], iwait := 0, ibad := false, flight := [] }

/-- A block as the save area keeps it. -/
def Block.save (b : Block) : Block :=
  { b with copies := b.copies.map Copy.save, group := none, stopping := false, giveUp := false }

/-- A team's register that cannot be corrected is saved: those of a team that has ended are not, nor is the handler window of a
team at P0 (R407). -/
def Team.saveUpset (t : Team) (m : Option (List Word)) : Bool :=
  t.status == .stopped && ((t.upU.any fun k => t.p1 || decide (k < 56)) ||
    t.upV.any fun k => (t.p1 || decide (k % 1024 < t.allot)) && t.savesKey m k)

/-- The save reads a register or a pool word that cannot be corrected (R426). -/
def State.saveUpset (s : State) (c : Nat) (b : Block) : Bool :=
  !b.upSp.isEmpty || !b.upAcc.isEmpty ||
  (List.range 16).any fun t => match s.team? c t with
    | some tm => tm.saveUpset (tm.saveMask b.rec_)
    | none => false

/-- Every held line of a core written back (R317). -/
def State.giveLines (s : State) (c : Nat) : State :=
  s.modCore c fun x => x.held.foldl (fun (x : Core) p => x.recall p.1 s.cycle) x

/-- The block goes to its slot of the save area. -/
def State.saveBlock (s : State) (c : Nat) (b : Block) : State :=
  let s := s.tick
  let teams : PMap Team := (List.range 16).filterMap fun t =>
    (s.team? c t).map fun (tm : Team) => (t, tm.save (tm.saveMask b.rec_) s.cycle (s.fresh + t))
  let s := { s with fresh := s.fresh + 16 }
  let s := (s.giveLines c).offCore c b
  { s with saved := s.saved ++ [SavedBlock.mk b.save teams] }

/-- The parts that the engine has done at its boundary performed, and its progress recorded (R280, R294). -/
def Block.engineStop (b : Block) (seed : Nat) : Block :=
  match b.seq.engine with
  | some e => b.engineRun seed ((e.boundary.getD 0) - e.next)
  | none => b

/-- The engine instruction in flight reads a pool word that cannot be corrected (R426). -/
def Block.engineUpset (b : Block) : Option Engine := b.seq.engine.filter fun e => e.op.upset b

/-- BLOCK_SAVE: the engine has run on to its boundary, the block leaves its group, its trace is written, and its state is
saved. An engine instruction that reads a pool word that cannot be corrected ends the block as it does where it completes (R426). -/
def execBlockSave (core : Nat) (s : State) : Host.Outcome State Fault Refusal :=
  .next (
    let s := s.stopTeams core
    match s.block? core with
    | none => s
    | some b =>
      if !b.stopping || !s.saveReady core b || !((b.seq.engine.map fun e => e.boundary.isSome).getD true) then s
      else
        let s := if b.group.isSome then s.revokeSlot core else s
        if b.group.isSome && !s.leaveReady core then s
        else
          let s := (s.traceAll core).tick
          if s.tracing core then s
          else match b.engineUpset with
          | some e => s.engineKill core e
          | none =>
            let s := s.modBlock core fun b => b.engineStop s.fresh
            match s.block? core with
            | none => s
            | some b =>
              if s.saveUpset core b then (s.killContext b.ctx .poisonedData).harbour
              else (s.saveBlock core b).harbour)

/-! The restore (R381, R409). -/

/-- A team as it resumes: the watchdog restarts, a second interval goes on. DESIGN CHOICE (entry 73): its pass-over count (R369)
is 0, since neither R407 nor R409 names it. -/
def Team.restore (t : Team) (cycle : Nat) : Team :=
  { t with
    status := if t.status != .stopped then t.status
      else if t.wait.cause = .none then .live else .parked
    readyAt := cycle, passOver := 0
    wdogFrom := cycle, wdogElapsed := 0
    wdog2From := t.wdog2From.map fun _ => cycle - t.wdogElapsed }

/-- The teams that wait for Longshore draw again: what they had asked for ended with the save. -/
def State.drawAgain (s : State) (c : Nat) : State :=
  (List.range 16).foldl (fun s t => match s.team? c t with
    | some tm => if tm.status = .parked && tm.wait.cause = .range then s.shoreTeam false c t else s
    | none => s) s

/-- A saved block resumes on a core: no L1 line stays, since the team may have stored elsewhere since (R149), and a team whose
watchdog trap fell due while it was stopped leaves its wait for it (R411). DESIGN CHOICE (entry 57): ALLOW is CAP, as at a
dispatch (R384); DESIGN CHOICE (entry 61): a TIME packet is written as at a block's start. -/
def State.restoreBlock (s : State) (c : Nat) (k : SavedBlock) : State :=
  let s := if (s.core c).lastCtx = some k.block.ctx then s else s.clearCore c
  let s := (s.replaceBanks c).modCore c fun x => { x with
    lastCtx := some k.block.ctx, l1 := [], dps := [], allow := s.capOf c, shore := .idle }
  let s := { s with blocks := PMap.set s.blocks c k.block }
  let s := k.teams.foldl (fun (s : State) p => s.setTeam c p.1 (p.2.restore s.cycle)) s
  let s := ((s.moveTasks c k.block.launch).openTrace c k.block.ctx).emitTime c
  let s := (s.refreshPresence).drawAgain c
  (k.teams.foldl (fun (s : State) p => if ((s.team? c p.1).map (·.status)) = some .parked then s.parkDue c p.1 else s) s).settle

/-- BLOCK_RESTORE: the k-th saved block goes to a free core allotted to its context. DESIGN CHOICE (entry 57): the lowest of
them. -/
def execBlockRestore (k : Nat) (s : State) : Host.Outcome State Fault Refusal :=
  .next (match s.saved[k]? with
    | none => s
    | some x => match s.freeCore x.block.ctx with
      | none => s
      | some c => ({ s with saved := listDrop s.saved k } : State).restoreBlock c x)

/-! The watchdog (R410, R411). -/

/-- The watchdog interval of the context on a core, in cycles. -/
def State.wdogCycles (s : State) (c : Nat) : Nat :=
  ((PMap.get? s.ctxs (s.ctxOf c)).map (·.wdogMs)).getD 100 * Config.cyclesPerMs

def Team.resident (t : Team) : Bool := t.status == .live || t.status == .parked || t.status == .stopped

/-- WATCHDOG_EXPIRY: the trap falls due at the team's next clause boundary; at P1 the second interval starts. -/
def execWatchdogExpiry (core team : Nat) (s : State) : Host.Outcome State Fault Refusal :=
  .next (match s.team? core team with
    | none => s
    | some tm =>
      if !tm.resident || tm.wdogDue || tm.wdog2From.isSome ||
          decide (s.cycle + tm.wdogElapsed < tm.wdogFrom + s.wdogCycles core) then s
      else if tm.p1 then s.setTeam core team { tm with wdog2From := some s.cycle }
      else (s.setTeam core team { tm with wdogDue := true }).leaveWait core team)

/-- WATCHDOG_SECOND_EXPIRY: firmware kills every block of the context. -/
def execWatchdogSecondExpiry (core team : Nat) (s : State) : Host.Outcome State Fault Refusal :=
  .next (match s.team? core team with
    | none => s
    | some tm => match tm.wdog2From with
      | none => s
      | some f =>
        if !tm.resident || decide (s.cycle < f + s.wdogCycles core) then s
        else (s.killContext (s.ctxOf core) .watchdog).harbour)

end Sys2Proof.Machine
end

