-- ==== Sys2Proof/Machine/Integrity.lean ====
section
/-! DEFINITION. TIME packets, temperatures, links, both resets and readiness (R70, R78, R418 to R428). -/

namespace Sys2Proof.Machine

/-- TRACE_TIME_TICK: at a multiple of 4,096 cycles every core at work writes a TIME packet. -/
def execTraceTimeTick (s : State) : Host.Outcome State Fault Refusal :=
  .next (if s.cycle % 4096 != 0 then s else s.blocks.foldl (fun s p => s.emitTime p.1) s)

/-! Resets (R420, R421, R424). -/

/-- What both resets keep: repair maps, error records, counts and their windows, spare banks, the fuses and the image slots,
the sensors' temperatures; the model's own fields; and the messages already sent. -/
def State.afterReset (s : State) : State :=
  { State.reset with
    sched := s.sched, ecc := s.ecc, fresh := s.fresh, outbox := s.outbox, epoch := s.epoch
    images := s.images, fuseMin := s.fuseMin
    hbmRecs := s.hbmRecs, errWindow := s.errWindow, bankErrs := s.bankErrs, declared := s.declared
    remaps := s.remaps, spareRows := s.spareRows
    poolErrs := s.poolErrs, poolDeclared := s.poolDeclared
    temps := s.temps
    cores := s.cores.filterMap fun (p : Nat × Core) =>
      let x := { Core.initial with spares := p.2.spares, lastingBanks := p.2.lastingBanks, withdrawn := p.2.withdrawn }
      if x = Core.initial then none else some (p.1, x) }

/-- Cold reset: the time and the fabric configuration begin anew, the contents of HBM are lost. Error windows go on from
where they stood (R420, entry 59). -/
def State.coldReset (s : State) : State := { s.afterReset with epoch := s.clock }

/-- Warm reset: HBM, its poison and free rows, and the fabric configuration are kept; what only the L2 held is lost. -/
def State.warmReset (s : State) : State :=
  { s.afterReset with
    warm := true, cycle := s.cycle
    mem := s.mem, poison := s.poison, freeRows := s.freeRows
    deviceId := s.deviceId, remoteTimeout := s.remoteTimeout, startTimeout := s.startTimeout, groupTimeout := s.groupTimeout
    throttle := s.throttle }

def execColdReset (s : State) : Host.Outcome State Fault Refusal := .next s.coldReset
def execWarmReset (s : State) : Host.Outcome State Fault Refusal := .next s.warmReset

/-- The boot ROM accepts an image: signed under the vendor key that is fused, and not below the fused minimum version. -/
def State.accepts (s : State) (x : Image) : Bool := x.signed && x.keyOk && decide (s.fuseMin ≤ x.version)

/-- The image that boots: the first slot's, else the second's, where one passes (R422). -/
def State.bootImage (s : State) : Option Image :=
  ((List.range 2).filterMap fun k => PMap.get? s.images k).find? s.accepts

/-- DEVICE_READY: verified firmware has trained the links and cleared every pool; with no image that passes the device never
becomes ready (R421, R422). -/
def execDeviceReady (s : State) : Host.Outcome State Fault Refusal :=
  .next (match (if s.ready then none else s.bootImage) with
    | some x => { s with ready := true, secVersion := x.version, fwDigest := x.digest }
    | none => s)

/-- D2D_REPLAY_LIMIT: firmware warm-resets the device (R426). -/
def execD2dReplayLimit (s : State) : Host.Outcome State Fault Refusal := .next s.warmReset

/-! Temperatures (R70, R428). -/

/-- A quadrant's RATE is halved above 95 °C, until its junction is below 90 °C. -/
def throttled (old : List Nat) (quadrant : Nat) (celsius : Int) : List Nat :=
  if 95 < celsius then quadrant :: old.filter (· != quadrant)
  else if celsius < 90 then old.filter (· != quadrant)
  else old

/-- Every context killed, with its report. -/
def State.killAll (s : State) (cause : Cause) : State := s.ctxs.foldl (fun s p => s.killContext p.1 cause) s

/-- A junction above 115 °C: every context is killed, then the device is reset. -/
def State.overheat (s : State) (celsius : Int) : State := if 115 < celsius then (s.killAll .watchdog).warmReset else s

/-- TEMPERATURE_CHANGE: firmware's answer (Table 24.7). -/
def execTemperatureChange (x : Sensor) (celsius : Int) (s : State) : Host.Outcome State Fault Refusal :=
  .next (
    let s := { s with temps := PMap.set s.temps (sensorKey x) celsius }
    match x with
    | .bank _ _ => s.overheat celsius
    | .compute stack quadrant =>
      ({ s with throttle := throttled s.throttle (4 * (stack % 4) + quadrant % 4) celsius } : State).overheat celsius)

/-! What comes from outside the device's messages (R384, R422, R425 to R428). -/

/-- A word of a sector that the L2 holds cannot be corrected: the sector is poisoned (R425). -/
def State.strikeL2 (s : State) (sector : Nat) : State :=
  if s.l2Holds sector || s.l2.any fun p => p.1 / 64 == sector then
    ({ s with l2Whole := s.l2Whole.filter (· != sector) } : State).poison1 sector
  else s

/-- A word of a block's scratchpad or accumulator storage cannot be corrected (R426). -/
def Block.strike (b : Block) (acc : Bool) (word : Nat) : Block :=
  if acc then (if decide (8 * word + 8 ≤ b.accBytes) && !b.upAcc.contains word then { b with upAcc := word :: b.upAcc } else b)
  else if decide (8 * word + 8 ≤ b.spBytes) && !b.upSp.contains word then { b with upSp := word :: b.upSp } else b

/-- A corrected error of a pool bank; the third within 24 hours declares the bank lasting (R427). -/
def State.poolError (s : State) (c bank : Nat) : State :=
  let l := s.poolErrsOf c bank ++ [s.clock]
  let known := s.poolDeclared.contains (c, bank) || (s.core c).lastingBanks.contains bank || (s.core c).withdrawn
  { s with
    poolErrs := PMap.set s.poolErrs (poolKey c bank) l
    poolDeclared := if 3 ≤ l.length && !known then s.poolDeclared ++ [(c, bank)] else s.poolDeclared }

/-- Storage that fails its check, and what firmware and the makers of images do by themselves; a number that names nothing
changes nothing (R384, R422, R425 to R428). -/
def State.strike (s : State) : Outside → State
  | .l2Word sector => s.strikeL2 sector
  | .poolWord c acc word => s.modBlock c fun b => b.strike acc word
  | .poolCorrected c bank => if c < Config.cores && bank < 128 then s.poolError c bank else s
  | .laneReg c t lane reg =>
    if t < 16 then s.modTeam c t fun tm =>
      if lane < tm.size && reg < 512 && !tm.upV.contains (1024 * lane + reg) then { tm with upV := (1024 * lane + reg) :: tm.upV } else tm
    else s
  | .uniReg c t reg =>
    if t < 16 then s.modTeam c t fun tm => if reg < 64 && !tm.upU.contains reg then { tm with upU := reg :: tm.upU } else tm
    else s
  | .voltage d v => if d < 32 && 5500 ≤ v && v ≤ 8500 then { s with volts := PMap.set s.volts d v } else s
  | .power d r k =>
    if d < 32 && d % 2 = 0 && 1 ≤ r && r ≤ 255 && 4096 ≤ k && k ≤ 65535 then
      { s with rate := PMap.set s.rate d r, cap := PMap.set s.cap d k }
    else s
  | .image slot x => if slot < 2 && x.version < 65536 then { s with images := PMap.set s.images slot x } else s
  | .raiseMin v => if s.ready && v < 65536 then { s with fuseMin := max s.fuseMin v } else s

/-! Links (R78). -/

/-- PORT_LINK_LOSS and PORT_LINK_RETURN of ports 0 to 17: bandwidth and timing alone change. -/
def execPortLinkLoss (port : Nat) (s : State) : Host.Outcome State Fault Refusal :=
  .next (if port < 18 && !s.portsDown.contains port then { s with portsDown := port :: s.portsDown } else s)

def execPortLinkReturn (port : Nat) (s : State) : Host.Outcome State Fault Refusal :=
  .next { s with portsDown := s.portsDown.filter (· != port) }

end Sys2Proof.Machine
end

