-- ==== Sys2Proof/Machine/System.lean ====
section
/-! DEFINITION. The system instructions: TRAP, TRET, SKIP, KILL, SYSR, SYSW, the read of XREC and XINV
(R119, R120, R183, R184, R390 to R403). -/

namespace Sys2Proof.Machine

/-- TRAP (R401): the completed kind. -/
def execTrap (code : BitVec 10) (z : Bool) (s : State) : Host.Outcome State Fault Refusal :=
  s.issue (.trap code z) z .no [] fun c t tm s =>
    (s.announced c t).raise c t { cause := .trap, kind := .completed, arg := code.toNat, mask := some tm.act }

/-- A word of major 0x2D that only a handler may issue (R400). -/
def State.handlerWord (s : State) (i : Instr) (z : Bool) (f : Nat → Nat → Team → TrapFrame → State → State) :
    Host.Outcome State Fault Refusal :=
  s.issue i z .no [] fun c t tm s =>
    match (if tm.p1 then tm.frame else none) with
    | none => s.raise c t (plainTrap .illegalInstruction)
    | some fr => f c t tm fr s

/-- A window LDP whose trap was handled is issued again where SKIP has not passed over it: it lands once its lines are present
(R135, R399, R426). -/
def State.redoLate (s : State) (c t : Nat) (fr : TrapFrame) : State :=
  if fr.skipped then s
  else fr.redo.foldl (fun s x =>
    let s := s.tick
    s.modTeam c t fun u => { u with wld := u.wld ++ [{ x with id := s.fresh, again := true }] }) s

/-- TRET's last step: the sequencer goes on, and replays hold the team; a REFILL that waited for Longshore draws again once every
replay has landed (Table 20.4, R123). -/
def State.afterTret (s : State) (c t : Nat) (fr : TrapFrame) : State :=
  let s := if fr.seq then (if fr.skipped then s.seqPass c else s.seqRetry c) else s
  let s := s.settle
  if fr.wait.cause = .range then
    if s.replayingAny c t then (s.modTeam c t fun u => { u with left := fr.wait }).holdReplay c t else s.drawGo c t
  else s.holdReplay c t

/-- TRET reissues the fault entries, unless SKIP discarded them. -/
def TrapFrame.reissues (fr : TrapFrame) : Bool := !fr.skipped && (fr.kind == .deferred || fr.kind == .boundary)

/-- TRET; what it reissues is held behind a FENCE of the handler (R320). -/
def execTret (z : Bool) (s : State) : Host.Outcome State Fault Refusal :=
  s.handlerWord (.tret z) z fun c t tm fr s =>
    if tm.fenced && fr.reissues && !(tm.faults ++ tm.overflow).isEmpty then s
    else
    let s := (s.announced c t).emitTrap c t fr.cause (bit tm.trapcause.toNat 8) 1 tm.fpc
    let s := ((s.setTeam c t (tm.leaveHandler fr s.cycle)).endClause c t).redoLate c t fr
    let s := if fr.reissues then s.replayAll c t else s
    s.afterTret c t fr

/-- SKIP: a second one changes nothing; the handler goes on. -/
def execSkip (z : Bool) (s : State) : Host.Outcome State Fault Refusal :=
  s.handlerWord (.skip z) z fun c t tm fr s =>
    if fr.skipped then s.finish c t true
    else
      let s := (s.announced c t).emitTrap c t fr.cause (bit tm.trapcause.toNat 8) 2 tm.fpc
      let s := if fr.kind == .deferred || fr.kind == .boundary then (s.discardAll c t).modTeam c t fun u => { u with xcount := 0, xsel := 0 } else s
      (s.modTeam c t fun u => { u with frame := some { fr with skipped := true } }).finish c t true

/-- KILL, once the team's store queue is performed; with a sequencer trap in hand the whole block goes (R278). -/
def execKill (z : Bool) (s : State) : Host.Outcome State Fault Refusal :=
  s.handlerWord (.kill z) z fun c t tm fr s =>
    match s.trapDrain c t tm with
    | none => s
    | some s =>
      let s := (s.announced c t).emitTrap c t fr.cause (bit tm.trapcause.toNat 8) 3 tm.fpc
      let s := s.killTeam c t 1 fr.cause tm.fpc fr.addr
      if fr.seq then s.killRest c fr.cause else s

/-! SYSR (R183, R402). -/

def half (hi : Bool) (x : DWord) : Word := if hi then (x >>> 32).setWidth 32 else x.setWidth 32

/-- MSQSTAT (Table 14.13). -/
def Sequencer.stat (q : Sequencer) : Nat := bnum q.ended + 2 * bnum q.parked + 4 * bnum q.trap.isSome

/-- The word of XREC (Table 20.5). -/
def Team.xrec (t : Team) : Word := BitVec.ofNat 32 (t.xcount % 16 + 16 * (t.xsel % 16))

/-- What a register shows in a lane; none where its number names no register that can be read. -/
def State.sysVal (s : State) (c t : Nat) (tm : Team) (code l : Nat) : Option Word :=
  let ctx := PMap.get? s.ctxs (s.ctxOf c)
  let troot := (ctx.map (·.troot)).getD 0
  let q := (s.block? c).map (·.seq)
  match code with
  | 0 => some (BitVec.ofNat 32 l)
  | 1 => some (BitVec.ofNat 32 t)
  | 2 => some (BitVec.ofNat 32 tm.wordMask)
  | 3 => some ((PMap.get? tm.iter l).getD 0)
  | 4 => some tm.rangeNext
  | 5 => some tm.rangeEnd
  | 6 => some (if (frameOf tm.stack).isSome then tm.ticket else tm.rangeNext)
  | 7 => some (half false tm.arg)
  | 8 => some (half true tm.arg)
  | 9 => some tm.addrhi
  | 10 => some ((tm.status2 l).setWidth 32)
  | 11 => some (tm.trapen.setWidth 32)
  | 12 => some (tm.cestat.setWidth 32)
  | 13 => some (tm.sgmask.setWidth 32)
  | 14 => some (BitVec.ofNat 32 ((q.map (·.stat)).getD 1))
  | 15 => some ((q.map fun q => (q.pc - q.base).setWidth 32).getD 0)
  | 32 => some tm.trapcause
  | 33 => some (half false tm.fpc)
  | 34 => some (half true tm.fpc)
  | 35 => some (half false tm.faddr)
  | 36 => some (half true tm.faddr)
  | 37 => some (if tm.flane.getLsbD l then 1 else 0)
  | 38 => some tm.xfault
  | 39 => some tm.xrec
  | 42 => some (half false troot)
  | 43 => some (half true troot)
  | 44 => some ((q.map (·.msqaddr)).getD 0)
  | 45 => some (half false (s.tvec c))
  | 46 => some (half true (s.tvec c))
  | 47 => some (tm.tix.setWidth 32)
  | 48 => some (tm.tsix.setWidth 32)
  | 49 => some tm.htoken
  | _ => none

/-- A read that Table 20.9 allows. -/
def sysReadable (code : Nat) (p1 : Bool) : Bool := decide (code ≤ 15) || (p1 && code != 40 && code != 41)

/-- The registers that show one fault entry, as entry SEL; entry 0 is the one shown at entry (R398). -/
def Team.showEntry (t : Team) : Team :=
  match t.faults[(t.xfirst + t.xsel) % t.xcount]? with
  | none => t
  | some e =>
    { t with
      faddr := BitVec.ofNat 64 e.first.va
      flane := e.shown.getD ((t.frame.map (·.mask)).getD t.act)
      xfault := e.first.xfault
      trapcause := (t.trapcause >>> 8 <<< 8) ||| BitVec.ofNat 32 e.first.cause.code }

/-- A read of XREC moves SEL on first (R398). -/
def Team.xrecStep (t : Team) : Team :=
  if t.xcount = 0 then t else ({ t with xsel := (t.xsel + 1) % t.xcount } : Team).showEntry

/-- SYSR. -/
def execSysr (d : Opd) (code : BitVec 10) (z : Bool) (s : State) : Host.Outcome State Fault Refusal :=
  s.issue (.sysr d code z) z .no [dstN d 1] fun c t tm s =>
    if !sysReadable code.toNat tm.p1 then s.raise c t (plainTrap .permission)
    else
      let tm := if code.toNat = 39 then tm.xrecStep else tm
      let res := tm.parts.map fun l => LaneVal.mk l (((s.sysVal c t tm code.toNat l).getD 0).setWidth 64) false
      (s.setTeam c t (tm.writeDst d false 1 res)).finish c t z

/-- XREC_READ: the step that a SYSR of XREC makes on the acting team's entries. -/
def execXrecRead (s : State) : Host.Outcome State Fault Refusal :=
  .next (s.modTeam s.cur.core s.cur.team fun tm => if tm.p1 then tm.xrecStep else tm)

/-! XINV (R119, R120). -/

/-- The reserved bits and modes of Table 6.7. -/
def xinvBad (x : DWord) : Bool := bits x.toNat 56 8 != 0 || bits x.toNat 2 14 != 0 || 2 ≤ x.toNat % 4

/-- Step 1: the team's earlier stores have been performed at DEVICE scope. -/
def State.storesHome (s : State) (c t : Nat) : Bool :=
  ((s.team? c t).map fun tm => tm.sq.isEmpty).getD true &&
  !(s.core c).order.any fun w => w.team == t && (s.localSector w).isSome

/-- An entry that an XINV removes. -/
def Xinv.hits (x : Xinv) (e : TlbEntry) : Bool :=
  e.ctx == x.ctx && (match x.vpn with | none => true | some v => e.covers x.ctx (v * 2 ^ 16))

/-- Step 2: matching leaves and the context's pointers removed from the whole device, and the results of its walks. -/
def State.xinvRemove (s : State) (x : Xinv) : State :=
  let all := (s.cores.flatMap fun (p : Nat × Core) => p.2.tlb) ++ s.l2tlb.flatMap fun (p : Nat × List TlbEntry) => p.2
  let span := ((all.filter x.hits).map fun e => pageBits e.ps).foldl max 16
  { s with
    cores := s.cores.map fun (p : Nat × Core) => (p.1, { p.2 with tlb := p.2.tlb.filter fun e => !x.hits e })
    l2tlb := s.l2tlb.map fun (p : Nat × List TlbEntry) => (p.1, p.2.filter fun e => !x.hits e)
    ptrs := s.ptrs.map fun (p : Nat × List PtrEntry) => (p.1, p.2.filter (·.ctx != x.ctx))
    walks := s.walks.map fun (w : Walk) => if w.ctx = x.ctx then { w with res := none } else w
    xinvs := s.xinvs.map fun y => if y = x then { y with removed := true, span := span } else y }

/-- The removal made as soon as the team's stores are home. -/
def State.xinvTry (s : State) (x : Xinv) : State :=
  if !x.removed && s.storesHome x.core x.team then s.xinvRemove x else s

/-- A SYSW to XINVHI: checked, begun, and held parked until XINV_COMPLETE. -/
def State.xinvWord (s : State) (c t : Nat) (tm : Team) (z : Bool) (hi : Word) : State :=
  if tm.second then
    if s.xinvs.any fun x => x.core == c && x.team == t then (s.announced c t).park c t ⟨.xinv, 0, 0⟩ else s.finish c t z
  else
    let v : DWord := hi ++ tm.xinvlo
    if xinvBad v then s.raise c t (plainTrap .illegalInstruction)
    else
      let x : Xinv := ⟨c, t, s.ctxOf c, if v.toNat % 4 = 0 then some (bits v.toNat 16 40) else none, false, 16⟩
      let s := { s with xinvs := s.xinvs ++ [x] }.setTeam c t { tm with second := true }
      ((s.announced c t).park c t ⟨.xinv, 0, 0⟩).xinvTry x

/-- XINV_LEAF: the oldest XINV of that leaf removes its entries. -/
def execXinvLeaf (vpn : BitVec 40) (s : State) : Host.Outcome State Fault Refusal :=
  .next (match s.xinvs.find? fun x => !x.removed && x.vpn == some vpn.toNat with
    | some x => s.xinvTry x
    | none => s)

/-- XINV_CONTEXT: the oldest XINV of a whole context removes its entries. -/
def execXinvContext (s : State) : Host.Outcome State Fault Refusal :=
  .next (match s.xinvs.find? fun x => !x.removed && x.vpn.isNone with
    | some x => s.xinvTry x
    | none => s)

/-- An address that a removed entry may have translated. -/
def Xinv.reaches (x : Xinv) (va : Nat) : Bool :=
  match x.vpn with
  | none => true
  | some v => va / 2 ^ x.span == v * 2 ^ 16 / 2 ^ x.span

/-- A store-queue entry with such an address. -/
def Xinv.holds (x : Xinv) (e : SqEntry) : Bool :=
  match e.work with
  | .store ls => ls.any fun l => x.reaches l.va
  | .atomic _ _ _ ls => ls.any fun l => x.reaches l.va
  | _ => false

/-- A team's loads and queued accesses that an XINV waits for, and its COLLs, whose operands are translated at issue. -/
def Team.xinvBusy (t : Team) (x : Xinv) : Bool :=
  (t.out.any fun o => o.lanes.any fun l => l.pa.isSome && x.reaches l.va) || !t.colls.isEmpty || t.sq.any (x.holds ·)

/-- Step 3: an access of the context that a removed entry translated is still under way. -/
def State.xinvBusy (s : State) (x : Xinv) : Bool :=
  (s.blocks.any fun p => p.2.ctx == x.ctx && (
    ((List.range 16).any fun t => ((s.team? p.1 t).map (·.xinvBusy x)).getD false) ||
    p.2.copies.any fun k => !k.flight.isEmpty || k.iwait != 0)) ||
  (s.cores.any fun p => (p.2.order.any fun w => w.ctx == x.ctx && w.vas.any x.reaches) ||
    p.2.left.any fun q => q.ctx == x.ctx && q.sq.any (x.holds ·)) ||
  s.remote.any fun r => r.ctx == x.ctx && x.reaches r.va

/-- XINV_COMPLETE: the parked team goes on. -/
def execXinvComplete (core team : Nat) (s : State) : Host.Outcome State Fault Refusal :=
  .next (match s.xinvs.find? fun x => x.core == core && x.team == team with
    | none => s
    | some x =>
      if x.removed && !s.xinvBusy x then ({ s with xinvs := s.xinvs.filter fun y => y != x } : State).settle
      else s.xinvTry x)

/-! SYSW (R183, R402). -/

/-- A write that Table 20.9 allows. -/
def sysWritable (code : Nat) (p1 : Bool) : Bool :=
  (9 ≤ code && code ≤ 12) || (p1 && (code = 40 || code = 41 || (45 ≤ code && code ≤ 48)))

/-- A half of TVEC written. -/
def State.setTvec (s : State) (c : Nat) (hi : Bool) (x : Word) : State :=
  { s with ctxs := PMap.modify s.ctxs (s.ctxOf c) fun k =>
    { k with tvec := if hi then x ++ k.tvec.setWidth 32 else ((k.tvec >>> 32).setWidth 32 : Word) ++ x } }

/-- The team's own registers that SYSW writes. -/
def Team.sysWrite (t : Team) (code : Nat) (a : Opd) : Team :=
  let x := t.read32 t.first a
  match code with
  | 9 => { t with addrhi := x }
  | 10 => { t with stat := t.active.foldl (fun m l => PMap.set m l ((t.read32 l a).setWidth 2)) t.stat }
  | 11 => { t with trapen := x.setWidth 2 }
  | 12 => { t with cestat := x.setWidth 2 }
  | 40 => { t with xinvlo := x }
  | 47 => { t with tix := x.setWidth 9 }
  | 48 => { t with tsix := x.setWidth 6 }
  | _ => t

/-- How SYSW reads its source: STATUS is held per lane, the others are read once (R183). -/
def syswUse (code : Nat) (a : Opd) : Use := if code = 10 then src1 a else srcOnce a

/-- SYSW. -/
def execSysw (a : Opd) (code : BitVec 10) (z : Bool) (s : State) : Host.Outcome State Fault Refusal :=
  s.issue (.sysw a code z) z .no [syswUse code.toNat a] fun c t tm s =>
    if !sysWritable code.toNat tm.p1 then s.raise c t (plainTrap .permission)
    else if code.toNat = 41 then s.xinvWord c t tm z (tm.read32 tm.first a)
    else
      let s := s.setTeam c t (tm.sysWrite code.toNat a)
      let s := if code.toNat = 45 || code.toNat = 46 then s.setTvec c (code.toNat = 46) (tm.read32 tm.first a) else s
      s.finish c t z

end Sys2Proof.Machine
end

