-- ==== Sys2Proof/Machine/Xlane.lean ====
section
/-! DEFINITION. Cross-lane words: major 0x17 (R236 to R248). All of them are team-wide. -/

namespace Sys2Proof.Machine

open Sys2Proof.Num

/-- The lanes of a warp that contribute to a pick or a swap: active and helper lanes (R237). -/
def Team.contributes (t : Team) (l : Nat) : Bool := decide (l < t.size) && (t.act.getLsbD l || t.helps l)

/-- The source lane where it contributes, else the lane itself (R238, R240). -/
def Team.pickLane (t : Team) (l : Nat) (src : Option Nat) : Nat :=
  match src with
  | some q => if t.contributes (32 * (l / 32) + q) then 32 * (l / 32) + q else l
  | none => l

/-- The value of the source lane. -/
def Team.pickFrom (t : Team) (a : Opd) (l : Nat) (src : Option Nat) : Latch :=
  t.read false (t.pickLane l src) a

/-- LPICK: the source position from the lane's own b. -/
def State.lpick (s : State) (i : Instr) (f : AB) (g : Nat → Nat → Option Nat) : Host.Outcome State Fault Refusal :=
  s.computeFrom i f.z .yes [src1 f.a, src1 f.b, dstP f.d false]
    (fun t l => [(f.a, t.pickLane l (g (l % 32) (t.read false l f.b).val.toNat))]) fun t =>
    t.result .xl f.d f.n 1 (t.each fun l =>
      let b := t.read false l f.b
      let x := t.pickFrom f.a l (g (l % 32) b.val.toNat)
      ⟨x.val, x.taint || b.taint⟩)

def execLpickAt (f : AB) (s : State) := s.lpick (.lpickAt f) f fun _ b => some (b % 32)
def execLpickBack (f : AB) (s : State) := s.lpick (.lpickBack f) f fun q b => if b ≤ q then some (q - b) else none
def execLpickFwd (f : AB) (s : State) := s.lpick (.lpickFwd f) f fun q b => if q + b ≤ 31 then some (q + b) else none
def execLpickMir (f : AB) (s : State) := s.lpick (.lpickMir f) f fun q b => some (q ^^^ (b % 32))

/-- QSWP: the partner within the quad. -/
def State.qswp (s : State) (i : Instr) (f : A1) (x : Nat) : Host.Outcome State Fault Refusal :=
  s.computeFrom i f.z .yes [src1 f.a, dstP f.d false] (fun t l => [(f.a, t.pickLane l (some (l % 32 ^^^ x)))]) fun t =>
    t.result .xl f.d f.n 1 (t.each fun l => t.pickFrom f.a l (some (l % 32 ^^^ x)))

def execQswpH (f : A1) (s : State) := s.qswp (.qswpH f) f 1
def execQswpV (f : A1) (s : State) := s.qswp (.qswpV f) f 2
def execQswpD (f : A1) (s : State) := s.qswp (.qswpD f) f 3

/-! Votes (R241). -/

/-- The active lanes of a lane's warp. -/
def Team.mates (t : Team) (l : Nat) : List Nat := t.active.filter fun m => m / 32 == l / 32

def execPollAny (f : K2) (s : State) :=
  s.compute (.pollAny f) f.z .yes [] fun t =>
    t.setFlags f.d (t.flagsOf fun l => (t.mates l).any fun m => t.flag m f.a)

def execPollAll (f : K2) (s : State) :=
  s.compute (.pollAll f) f.z .yes [] fun t =>
    t.setFlags f.d (t.flagsOf fun l => (t.mates l).all fun m => t.flag m f.a)

def execPollMask (f : DK) (s : State) :=
  s.compute (.pollMask f) f.z .yes [dstP f.d false] fun t =>
    t.result .xl f.d f.n 1 (t.each fun l =>
      ⟨ofNat64 (((t.mates l).filter fun m => t.flag m f.a).foldl (fun x m => x + 2 ^ (m % 32)) 0), false⟩)

def execPollCnt (f : DK) (s : State) :=
  s.compute (.pollCnt f) f.z .yes [dstP f.d false] fun t =>
    t.result .xl f.d f.n 1 (t.each fun l => ⟨ofNat64 ((t.mates l).filter fun m => t.flag m f.a).length, false⟩)

/-! Reductions over the fixed tree (R242). -/

/-- One operation of the tree. -/
def redOp (o : RedOp) (x y : Word) : Word :=
  match o with
  | .add => x + y
  | .min => sminOf x y
  | .max => smaxOf x y
  | .minu => uminOf x y
  | .maxu => umaxOf x y
  | .fadd => BitVec.ofNat 32 (fadd fp32 .rn x.toNat y.toNat)
  | .fmin => BitVec.ofNat 32 (fp32.minmax true x.toNat y.toNat)
  | .fmax => BitVec.ofNat 32 (fp32.minmax false x.toNat y.toNat)

/-- R242's combine. DEDUCED (entry 79): a value that meets only empty nodes passes as it is, a NaN that is not the canonical one
among them, since combine(x, empty) := x is no operation of R187. -/
def combine (o : RedOp) : Option Word → Option Word → Option Word
  | some x, some y => some (redOp o x y)
  | x, none => x
  | none, y => y

/-- Node (m, i) of the tree over a set of positions. -/
def treeNode (o : RedOp) (leaf : Nat → Option Word) : Nat → Nat → Option Word
  | 0, i => leaf i
  | m + 1, i => combine o (treeNode o leaf m (2 * i)) (treeNode o leaf m (2 * i + 1))

/-- The tree over a list of lanes from a base lane on, m levels deep. -/
def Team.tree (t : Team) (o : RedOp) (a : Opd) (m base : Nat) (set : List Nat) : Word :=
  (treeNode o (fun q => if set.contains (base + q) then some (t.read32 (base + q) a) else none) m 0).getD 0

def Team.anyTaint (t : Team) (a : Opd) (set : List Nat) : Bool := set.any fun l => (t.read false l a).taint

/-- A reduction: the lanes reduced for each receiving lane; where there are none, its own a. -/
def State.reduce (s : State) (i : Instr) (f : RedF) (m : Nat) (set : Team → Nat → List Nat) :
    Host.Outcome State Fault Refusal :=
  s.compute i f.z .yes [src1 f.a, dstP f.d false] fun t =>
    t.result .xl f.d f.n 1 (t.each fun l =>
      let ls := set t l
      if ls.isEmpty then t.read false l f.a
      else ⟨up (t.tree f.op f.a m (if m = 5 then 32 * (l / 32) else 0) ls), t.anyTaint f.a ls⟩)

/-- The segments of a warp's active lanes, in order (R244). -/
def segments (head : Nat → Bool) : List Nat → List (List Nat)
  | [] => []
  | l :: r =>
    match segments head r with
    | [] => [[l]]
    | (x :: xs) :: more => if head x then [l] :: (x :: xs) :: more else (l :: x :: xs) :: more
    | [] :: more => [l] :: more

/-- A lane's segment: its own, for a helper lane that of the highest active lane below it, else the first. -/
def segmentOf (segs : List (List Nat)) (l : Nat) : List Nat :=
  segs.foldl (fun best x => if (x.headD 0) ≤ l then x else best) (segs.headD [])

def execRed (f : RedF) (s : State) := s.reduce (.red f) f 5 fun t l => t.mates l
def execSegred (f : RedF) (h : BitVec 3) (s : State) :=
  s.reduce (.segred f h) f 5 fun t l => segmentOf (segments (fun x => t.flag x h) (t.mates l)) l
def execScan (f : RedF) (s : State) := s.reduce (.scan f) f 5 fun t l => (t.mates l).filter fun m => decide (m ≤ l)
def execWred (f : RedF) (s : State) := s.reduce (.wred f) f 10 fun t _ => t.active

end Sys2Proof.Machine
end

