-- ==== Sys2Proof/Machine/Dispatch.lean ====
section
/-! DEFINITION. The dispatch: one arm for each constructor of `Instr`. -/

namespace Sys2Proof.Machine

def exec (i : Instr) (s : State) : Host.Outcome State Fault Refusal :=
  match i with
  | .add x0 => Sys2Proof.Machine.execAdd x0 s
  | .sub x0 => Sys2Proof.Machine.execSub x0 s
  | .and x0 => Sys2Proof.Machine.execAnd x0 s
  | .or x0 => Sys2Proof.Machine.execOr x0 s
  | .xor x0 => Sys2Proof.Machine.execXor x0 s
  | .andn x0 => Sys2Proof.Machine.execAndn x0 s
  | .orn x0 => Sys2Proof.Machine.execOrn x0 s
  | .shl x0 => Sys2Proof.Machine.execShl x0 s
  | .shr x0 => Sys2Proof.Machine.execShr x0 s
  | .sar x0 => Sys2Proof.Machine.execSar x0 s
  | .rol x0 => Sys2Proof.Machine.execRol x0 s
  | .min x0 => Sys2Proof.Machine.execMin x0 s
  | .max x0 => Sys2Proof.Machine.execMax x0 s
  | .minu x0 => Sys2Proof.Machine.execMinu x0 s
  | .maxu x0 => Sys2Proof.Machine.execMaxu x0 s
  | .abs x0 => Sys2Proof.Machine.execAbs x0 s
  | .neg x0 => Sys2Proof.Machine.execNeg x0 s
  | .sext x0 => Sys2Proof.Machine.execSext x0 s
  | .addImm x0 => Sys2Proof.Machine.execAddImm x0 s
  | .andImm x0 => Sys2Proof.Machine.execAndImm x0 s
  | .orImm x0 => Sys2Proof.Machine.execOrImm x0 s
  | .xorImm x0 => Sys2Proof.Machine.execXorImm x0 s
  | .shlImm x0 => Sys2Proof.Machine.execShlImm x0 s
  | .shrImm x0 => Sys2Proof.Machine.execShrImm x0 s
  | .sarImm x0 => Sys2Proof.Machine.execSarImm x0 s
  | .rolImm x0 => Sys2Proof.Machine.execRolImm x0 s
  | .mul x0 => Sys2Proof.Machine.execMul x0 s
  | .mulh x0 => Sys2Proof.Machine.execMulh x0 s
  | .mulhu x0 => Sys2Proof.Machine.execMulhu x0 s
  | .mad x0 => Sys2Proof.Machine.execMad x0 s
  | .div x0 => Sys2Proof.Machine.execDiv x0 s
  | .divu x0 => Sys2Proof.Machine.execDivu x0 s
  | .rem x0 => Sys2Proof.Machine.execRem x0 s
  | .remu x0 => Sys2Proof.Machine.execRemu x0 s
  | .mulw x0 => Sys2Proof.Machine.execMulw x0 s
  | .mulwu x0 => Sys2Proof.Machine.execMulwu x0 s
  | .madw x0 => Sys2Proof.Machine.execMadw x0 s
  | .madwu x0 => Sys2Proof.Machine.execMadwu x0 s
  | .clz x0 => Sys2Proof.Machine.execClz x0 s
  | .popc x0 => Sys2Proof.Machine.execPopc x0 s
  | .brev x0 => Sys2Proof.Machine.execBrev x0 s
  | .bfx x0 => Sys2Proof.Machine.execBfx x0 s
  | .bfxu x0 => Sys2Proof.Machine.execBfxu x0 s
  | .bfi x0 => Sys2Proof.Machine.execBfi x0 s
  | .cmp x0 x1 x2 x3 x4 x5 => Sys2Proof.Machine.execCmp x0 x1 x2 x3 x4 x5 s
  | .cmpImm x0 x1 x2 x3 x4 => Sys2Proof.Machine.execCmpImm x0 x1 x2 x3 x4 s
  | .sel x0 x1 => Sys2Proof.Machine.execSel x0 x1 s
  | .mov x0 => Sys2Proof.Machine.execMov x0 s
  | .movi x0 x1 x2 x3 => Sys2Proof.Machine.execMovi x0 x1 x2 x3 s
  | .setix x0 x1 => Sys2Proof.Machine.execSetix x0 x1 s
  | .setsix x0 x1 => Sys2Proof.Machine.execSetsix x0 x1 s
  | .setixImm x0 x1 => Sys2Proof.Machine.execSetixImm x0 x1 s
  | .setsixImm x0 x1 => Sys2Proof.Machine.execSetsixImm x0 x1 s
  | .kand x0 => Sys2Proof.Machine.execKand x0 s
  | .kor x0 => Sys2Proof.Machine.execKor x0 s
  | .knot x0 => Sys2Proof.Machine.execKnot x0 s
  | .kmov x0 => Sys2Proof.Machine.execKmov x0 s
  | .lea x0 x1 x2 x3 => Sys2Proof.Machine.execLea x0 x1 x2 x3 s
  | .fadd x0 => Sys2Proof.Machine.execFadd x0 s
  | .fsub x0 => Sys2Proof.Machine.execFsub x0 s
  | .fmul x0 => Sys2Proof.Machine.execFmul x0 s
  | .ffma x0 => Sys2Proof.Machine.execFfma x0 s
  | .fmin x0 => Sys2Proof.Machine.execFmin x0 s
  | .fmax x0 => Sys2Proof.Machine.execFmax x0 s
  | .fabs x0 => Sys2Proof.Machine.execFabs x0 s
  | .fneg x0 => Sys2Proof.Machine.execFneg x0 s
  | .fcmp x0 x1 x2 x3 x4 => Sys2Proof.Machine.execFcmp x0 x1 x2 x3 x4 s
  | .dadd x0 => Sys2Proof.Machine.execDadd x0 s
  | .dsub x0 => Sys2Proof.Machine.execDsub x0 s
  | .dmul x0 => Sys2Proof.Machine.execDmul x0 s
  | .dfma x0 => Sys2Proof.Machine.execDfma x0 s
  | .dmin x0 => Sys2Proof.Machine.execDmin x0 s
  | .dmax x0 => Sys2Proof.Machine.execDmax x0 s
  | .dabs x0 => Sys2Proof.Machine.execDabs x0 s
  | .dneg x0 => Sys2Proof.Machine.execDneg x0 s
  | .dcmp x0 x1 x2 x3 x4 => Sys2Proof.Machine.execDcmp x0 x1 x2 x3 x4 s
  | .hfma2 x0 => Sys2Proof.Machine.execHfma2 x0 s
  | .bfma2 x0 => Sys2Proof.Machine.execBfma2 x0 s
  | .hadd2 x0 => Sys2Proof.Machine.execHadd2 x0 s
  | .badd2 x0 => Sys2Proof.Machine.execBadd2 x0 s
  | .hmul2 x0 => Sys2Proof.Machine.execHmul2 x0 s
  | .bmul2 x0 => Sys2Proof.Machine.execBmul2 x0 s
  | .cvt x0 x1 x2 => Sys2Proof.Machine.execCvt x0 x1 x2 s
  | .dot4Sh x0 x1 => Sys2Proof.Machine.execDot4Sh x0 x1 s
  | .dot4I8 x0 => Sys2Proof.Machine.execDot4I8 x0 s
  | .maxe x0 => Sys2Proof.Machine.execMaxe x0 s
  | .scalee x0 => Sys2Proof.Machine.execScalee x0 s
  | .rcp x0 => Sys2Proof.Machine.execRcp x0 s
  | .rsq x0 => Sys2Proof.Machine.execRsq x0 s
  | .sqrt x0 => Sys2Proof.Machine.execSqrt x0 s
  | .ex2 x0 => Sys2Proof.Machine.execEx2 x0 s
  | .lg2 x0 => Sys2Proof.Machine.execLg2 x0 s
  | .sinpi x0 => Sys2Proof.Machine.execSinpi x0 s
  | .cospi x0 => Sys2Proof.Machine.execCospi x0 s
  | .tanh x0 => Sys2Proof.Machine.execTanh x0 s
  | .lpickAt x0 => Sys2Proof.Machine.execLpickAt x0 s
  | .lpickBack x0 => Sys2Proof.Machine.execLpickBack x0 s
  | .lpickFwd x0 => Sys2Proof.Machine.execLpickFwd x0 s
  | .lpickMir x0 => Sys2Proof.Machine.execLpickMir x0 s
  | .qswpH x0 => Sys2Proof.Machine.execQswpH x0 s
  | .qswpV x0 => Sys2Proof.Machine.execQswpV x0 s
  | .qswpD x0 => Sys2Proof.Machine.execQswpD x0 s
  | .pollAny x0 => Sys2Proof.Machine.execPollAny x0 s
  | .pollAll x0 => Sys2Proof.Machine.execPollAll x0 s
  | .pollMask x0 => Sys2Proof.Machine.execPollMask x0 s
  | .pollCnt x0 => Sys2Proof.Machine.execPollCnt x0 s
  | .red x0 => Sys2Proof.Machine.execRed x0 s
  | .segred x0 x1 => Sys2Proof.Machine.execSegred x0 x1 s
  | .scan x0 => Sys2Proof.Machine.execScan x0 s
  | .wred x0 => Sys2Proof.Machine.execWred x0 s
  | .ldB x0 => Sys2Proof.Machine.execLdB x0 s
  | .ldH x0 => Sys2Proof.Machine.execLdH x0 s
  | .ldW x0 => Sys2Proof.Machine.execLdW x0 s
  | .ldD x0 => Sys2Proof.Machine.execLdD x0 s
  | .ldQ x0 => Sys2Proof.Machine.execLdQ x0 s
  | .ldcB x0 => Sys2Proof.Machine.execLdcB x0 s
  | .ldcH x0 => Sys2Proof.Machine.execLdcH x0 s
  | .ldcW x0 => Sys2Proof.Machine.execLdcW x0 s
  | .ldcD x0 => Sys2Proof.Machine.execLdcD x0 s
  | .ldcQ x0 => Sys2Proof.Machine.execLdcQ x0 s
  | .gathW x0 => Sys2Proof.Machine.execGathW x0 s
  | .gathD x0 => Sys2Proof.Machine.execGathD x0 s
  | .ldp x0 => Sys2Proof.Machine.execLdp x0 s
  | .stp x0 => Sys2Proof.Machine.execStp x0 s
  | .acnt x0 x1 x2 => Sys2Proof.Machine.execAcnt x0 x1 x2 s
  | .wait x0 x1 => Sys2Proof.Machine.execWait x0 x1 s
  | .waitall => Sys2Proof.Machine.execWaitall s
  | .stB x0 => Sys2Proof.Machine.execStB x0 s
  | .stH x0 => Sys2Proof.Machine.execStH x0 s
  | .stW x0 => Sys2Proof.Machine.execStW x0 s
  | .stD x0 => Sys2Proof.Machine.execStD x0 s
  | .stQ x0 => Sys2Proof.Machine.execStQ x0 s
  | .atom x0 x1 => Sys2Proof.Machine.execAtom x0 x1 s
  | .ared x0 x1 x2 x3 x4 => Sys2Proof.Machine.execAred x0 x1 x2 x3 x4 s
  | .cas128 x0 x1 x2 x3 => Sys2Proof.Machine.execCas128 x0 x1 x2 x3 s
  | .fence x0 x1 => Sys2Proof.Machine.execFence x0 x1 s
  | .collAdd x0 x1 => Sys2Proof.Machine.execCollAdd x0 x1 s
  | .collMin x0 x1 => Sys2Proof.Machine.execCollMin x0 x1 s
  | .collMax x0 x1 => Sys2Proof.Machine.execCollMax x0 x1 s
  | .tcopy x0 x1 => Sys2Proof.Machine.execTcopy x0 x1 s
  | .tgath x0 x1 => Sys2Proof.Machine.execTgath x0 x1 s
  | .tscat x0 x1 => Sys2Proof.Machine.execTscat x0 x1 s
  | .tfill x0 x1 => Sys2Proof.Machine.execTfill x0 x1 s
  | .pres x0 x1 x2 => Sys2Proof.Machine.execPres x0 x1 x2 s
  | .sgjoin x0 x1 => Sys2Proof.Machine.execSgjoin x0 x1 s
  | .sgleave x0 => Sys2Proof.Machine.execSgleave x0 s
  | .sgmap x0 x1 => Sys2Proof.Machine.execSgmap x0 x1 s
  | .bra x0 x1 => Sys2Proof.Machine.execBra x0 x1 s
  | .call x0 x1 => Sys2Proof.Machine.execCall x0 x1 s
  | .rcv x0 x1 x2 => Sys2Proof.Machine.execRcv x0 x1 x2 s
  | .brk x0 => Sys2Proof.Machine.execBrk x0 s
  | .refill x0 => Sys2Proof.Machine.execRefill x0 s
  | .ret => Sys2Proof.Machine.execRet s
  | .brx x0 => Sys2Proof.Machine.execBrx x0 s
  | .callx x0 => Sys2Proof.Machine.execCallx x0 s
  | .lpad x0 x1 => Sys2Proof.Machine.execLpad x0 x1 s
  | .exit => Sys2Proof.Machine.execExit s
  | .barArr x0 x1 => Sys2Proof.Machine.execBarArr x0 x1 s
  | .barWait x0 => Sys2Proof.Machine.execBarWait x0 s
  | .barSync x0 x1 => Sys2Proof.Machine.execBarSync x0 x1 s
  | .yield x0 => Sys2Proof.Machine.execYield x0 s
  | .heart x0 x1 => Sys2Proof.Machine.execHeart x0 x1 s
  | .trap x0 x1 => Sys2Proof.Machine.execTrap x0 x1 s
  | .tret x0 => Sys2Proof.Machine.execTret x0 s
  | .skip x0 => Sys2Proof.Machine.execSkip x0 s
  | .kill x0 => Sys2Proof.Machine.execKill x0 s
  | .sysr x0 x1 x2 => Sys2Proof.Machine.execSysr x0 x1 x2 s
  | .sysw x0 x1 x2 => Sys2Proof.Machine.execSysw x0 x1 x2 s
  | .xrecRead => Sys2Proof.Machine.execXrecRead s
  | .xinvLeaf x0 => Sys2Proof.Machine.execXinvLeaf x0 s
  | .xinvContext => Sys2Proof.Machine.execXinvContext s
  | .xinvComplete x0 x1 => Sys2Proof.Machine.execXinvComplete x0 x1 s
  | .advImm x0 => Sys2Proof.Machine.execAdvImm x0 s
  | .advRnd x0 => Sys2Proof.Machine.execAdvRnd x0 s
  | .advScope x0 x1 => Sys2Proof.Machine.execAdvScope x0 x1 s
  | .advCache x0 => Sys2Proof.Machine.execAdvCache x0 s
  | .advSched x0 x1 => Sys2Proof.Machine.execAdvSched x0 x1 s
  | .advTag x0 => Sys2Proof.Machine.execAdvTag x0 s
  | .bfw x0 x1 => Sys2Proof.Machine.execBfw x0 x1 s
  | .bfs x0 => Sys2Proof.Machine.execBfs x0 s
  | .bfch x0 => Sys2Proof.Machine.execBfch x0 s
  | .bfp x0 x1 => Sys2Proof.Machine.execBfp x0 x1 s
  | .bft x0 x1 x2 x3 x4 x5 => Sys2Proof.Machine.execBft x0 x1 x2 x3 x4 x5 s
  | .sscan x0 x1 x2 x3 x4 x5 x6 => Sys2Proof.Machine.execSscan x0 x1 x2 x3 x4 x5 x6 s
  | .mloop x0 x1 x2 x3 => Sys2Proof.Machine.execMloop x0 x1 x2 x3 s
  | .mmov x0 x1 x2 x3 => Sys2Proof.Machine.execMmov x0 x1 x2 x3 s
  | .msetsd x0 x1 x2 => Sys2Proof.Machine.execMsetsd x0 x1 x2 s
  | .mbar x0 x1 => Sys2Proof.Machine.execMbar x0 x1 s
  | .mwait x0 x1 => Sys2Proof.Machine.execMwait x0 x1 s
  | .mcopy x0 x1 x2 x3 x4 => Sys2Proof.Machine.execMcopy x0 x1 x2 x3 x4 s
  | .madd x0 => Sys2Proof.Machine.execMadd x0 s
  | .msub x0 => Sys2Proof.Machine.execMsub x0 s
  | .mmul x0 => Sys2Proof.Machine.execMmul x0 s
  | .mand x0 => Sys2Proof.Machine.execMand x0 s
  | .mor x0 => Sys2Proof.Machine.execMor x0 s
  | .mxor x0 => Sys2Proof.Machine.execMxor x0 s
  | .mshl x0 => Sys2Proof.Machine.execMshl x0 s
  | .mshr x0 => Sys2Proof.Machine.execMshr x0 s
  | .mmin x0 => Sys2Proof.Machine.execMmin x0 s
  | .mmax x0 => Sys2Proof.Machine.execMmax x0 s
  | .mli x0 x1 x2 => Sys2Proof.Machine.execMli x0 x1 x2 s
  | .mliM x0 x1 x2 => Sys2Proof.Machine.execMliM x0 x1 x2 s
  | .mliT x0 x1 x2 => Sys2Proof.Machine.execMliT x0 x1 x2 s
  | .engineInstructionComplete x0 => Sys2Proof.Machine.execEngineInstructionComplete x0 s
  | .launch x0 => Sys2Proof.Machine.execLaunch x0 s
  | .partWrite x0 => Sys2Proof.Machine.execPartWrite x0 s
  | .partitionChangeEffective x0 => Sys2Proof.Machine.execPartitionChangeEffective x0 s
  | .partRead x0 => Sys2Proof.Machine.execPartRead x0 s
  | .freeRowsSet x0 => Sys2Proof.Machine.execFreeRowsSet x0 s
  | .freeRowsClear x0 => Sys2Proof.Machine.execFreeRowsClear x0 s
  | .freeRowsApplied => Sys2Proof.Machine.execFreeRowsApplied s
  | .errorRead x0 => Sys2Proof.Machine.execErrorRead x0 s
  | .exportWrite x0 => Sys2Proof.Machine.execExportWrite x0 s
  | .exportRead x0 => Sys2Proof.Machine.execExportRead x0 s
  | .groupCreate x0 => Sys2Proof.Machine.execGroupCreate x0 s
  | .groupRegistered x0 x1 => Sys2Proof.Machine.execGroupRegistered x0 x1 s
  | .groupDestroy x0 => Sys2Proof.Machine.execGroupDestroy x0 s
  | .configWrite x0 => Sys2Proof.Machine.execConfigWrite x0 s
  | .configRead x0 => Sys2Proof.Machine.execConfigRead x0 s
  | .ctxCreate x0 => Sys2Proof.Machine.execCtxCreate x0 s
  | .ctxDestroy x0 => Sys2Proof.Machine.execCtxDestroy x0 s
  | .unassignedCommand x0 => Sys2Proof.Machine.execUnassignedCommand x0 s
  | .messageOutsideSession x0 => Sys2Proof.Machine.execMessageOutsideSession x0 s
  | .sessionNonce x0 => Sys2Proof.Machine.execSessionNonce x0 s
  | .sessionGrant x0 x1 x2 => Sys2Proof.Machine.execSessionGrant x0 x1 x2 s
  | .launchForward x0 x1 => Sys2Proof.Machine.execLaunchForward x0 x1 s
  | .armed x0 x1 x2 => Sys2Proof.Machine.execArmed x0 x1 x2 s
  | .participantRefusal x0 x1 x2 x3 => Sys2Proof.Machine.execParticipantRefusal x0 x1 x2 x3 s
  | .start x0 x1 => Sys2Proof.Machine.execStart x0 x1 s
  | .abort x0 x1 => Sys2Proof.Machine.execAbort x0 x1 s
  | .startTimeout x0 x1 => Sys2Proof.Machine.execStartTimeout x0 x1 s
  | .killReport x0 x1 x2 => Sys2Proof.Machine.execKillReport x0 x1 x2 s
  | .endMessage x0 x1 x2 x3 => Sys2Proof.Machine.execEndMessage x0 x1 x2 x3 s
  | .blockDispatch => Sys2Proof.Machine.execBlockDispatch s
  | .blockEnd x0 => Sys2Proof.Machine.execBlockEnd x0 s
  | .arbitration x0 x1 => Sys2Proof.Machine.execArbitration x0 x1 s
  | .allowanceReplenish => Sys2Proof.Machine.execAllowanceReplenish s
  | .loadReply x0 x1 x2 x3 => Sys2Proof.Machine.execLoadReply x0 x1 x2 x3 s
  | .atomReply x0 x1 x2 => Sys2Proof.Machine.execAtomReply x0 x1 x2 s
  | .windowLdpReply x0 x1 => Sys2Proof.Machine.execWindowLdpReply x0 x1 s
  | .storeQueueEntryLeaves x0 x1 => Sys2Proof.Machine.execStoreQueueEntryLeaves x0 x1 s
  | .homeSliceRequest x0 x1 => Sys2Proof.Machine.execHomeSliceRequest x0 x1 s
  | .hbmCompletion x0 x1 x2 => Sys2Proof.Machine.execHbmCompletion x0 x1 x2 s
  | .tableWalkDone x0 => Sys2Proof.Machine.execTableWalkDone x0 s
  | .atomicLineRecall x0 x1 => Sys2Proof.Machine.execAtomicLineRecall x0 x1 s
  | .remoteRequest x0 => Sys2Proof.Machine.execRemoteRequest x0 s
  | .remoteReply x0 x1 => Sys2Proof.Machine.execRemoteReply x0 x1 s
  | .remoteTimeout x0 => Sys2Proof.Machine.execRemoteTimeout x0 s
  | .ownerUnreachable x0 => Sys2Proof.Machine.execOwnerUnreachable x0 s
  | .ownerReachable x0 => Sys2Proof.Machine.execOwnerReachable x0 s
  | .collRecord x0 x1 x2 x3 => Sys2Proof.Machine.execCollRecord x0 x1 x2 x3 s
  | .collRecordTimeout x0 x1 x2 => Sys2Proof.Machine.execCollRecordTimeout x0 x1 x2 s
  | .gridBarrierMessage x0 x1 x2 => Sys2Proof.Machine.execGridBarrierMessage x0 x1 x2 s
  | .copyQueueAdmit x0 => Sys2Proof.Machine.execCopyQueueAdmit x0 s
  | .copyStart x0 x1 => Sys2Proof.Machine.execCopyStart x0 x1 s
  | .copyIndexBatch x0 x1 => Sys2Proof.Machine.execCopyIndexBatch x0 x1 s
  | .copyRowArrives x0 x1 x2 => Sys2Proof.Machine.execCopyRowArrives x0 x1 x2 s
  | .longshoreRequest x0 => Sys2Proof.Machine.execLongshoreRequest x0 s
  | .longshoreAnswer x0 => Sys2Proof.Machine.execLongshoreAnswer x0 s
  | .preemptRequest x0 => Sys2Proof.Machine.execPreemptRequest x0 s
  | .preemptForceTimeout x0 x1 => Sys2Proof.Machine.execPreemptForceTimeout x0 x1 s
  | .blockSave x0 => Sys2Proof.Machine.execBlockSave x0 s
  | .blockRestore x0 => Sys2Proof.Machine.execBlockRestore x0 s
  | .watchdogExpiry x0 x1 => Sys2Proof.Machine.execWatchdogExpiry x0 x1 s
  | .watchdogSecondExpiry x0 x1 => Sys2Proof.Machine.execWatchdogSecondExpiry x0 x1 s
  | .traceTimeTick => Sys2Proof.Machine.execTraceTimeTick s
  | .refresh x0 x1 => Sys2Proof.Machine.execRefresh x0 x1 s
  | .patrolScrub x0 x1 => Sys2Proof.Machine.execPatrolScrub x0 x1 s
  | .rowDeclaredLasting x0 => Sys2Proof.Machine.execRowDeclaredLasting x0 s
  | .remapCopyDone x0 x1 => Sys2Proof.Machine.execRemapCopyDone x0 x1 s
  | .temperatureChange x0 x1 => Sys2Proof.Machine.execTemperatureChange x0 x1 s
  | .d2dReplayLimit => Sys2Proof.Machine.execD2dReplayLimit s
  | .coldReset => Sys2Proof.Machine.execColdReset s
  | .warmReset => Sys2Proof.Machine.execWarmReset s
  | .deviceReady => Sys2Proof.Machine.execDeviceReady s
  | .portLinkLoss x0 => Sys2Proof.Machine.execPortLinkLoss x0 s
  | .portLinkReturn x0 => Sys2Proof.Machine.execPortLinkReturn x0 s

end Sys2Proof.Machine
end

