-- ==== Sys2Proof/Machine/Moves.lean ====
section
/-! DEFINITION. The moves that some part of the device could make, and the choice among them. -/

namespace Sys2Proof.Machine

/-- The teams that may issue. -/
def State.teamMoves (s : State) : List Move :=
  s.teams.filterMap fun p => if s.canIssue (p.1 / 16) (p.1 % 16) then some (.team (p.1 / 16) (p.1 % 16)) else none

/-- The sequencers that may issue. -/
def State.seqMoves (s : State) : List Move :=
  s.blocks.filterMap fun p => if s.seqReady p.1 then some (.seq p.1) else none

/-- What a team has outstanding. -/
def teamEvents (c t : Nat) (tm : Team) : List Instr :=
  (tm.out.flatMap fun p => p.lanes.map fun l => .loadReply c t p.id l.lane) ++
  (tm.atoms.map fun a => .atomReply c t a.id) ++
  (if tm.wld.isEmpty then [] else [.windowLdpReply c t]) ++
  (if tm.sq.isEmpty then [] else [.storeQueueEntryLeaves c t]) ++
  (tm.colls.map fun k => .collRecordTimeout c t k.id) ++
  [.watchdogExpiry c t, .watchdogSecondExpiry c t] ++
  (if tm.stopReq then [.preemptForceTimeout c t] else [])

/-- What a copy can do next. -/
def copyEvents (c : Nat) (x : Copy) : List Instr :=
  [.copyStart c x.id, .copyIndexBatch c x.id] ++ x.pending.map fun r => .copyRowArrives c x.id r

/-- What a core and its block can do next. -/
def coreEvents (c : Nat) (b : Block) : List Instr :=
  ((List.range 4).map fun d => .arbitration c d) ++
  [.engineInstructionComplete c, .blockEnd c, .copyQueueAdmit c, .longshoreAnswer c] ++
  (if b.stopping then [.blockSave c] else []) ++
  b.copies.flatMap (copyEvents c)

/-- The steps of the device itself that can fall next; what comes from outside stands in `State.sched`
(entry 2). -/
def State.events (s : State) : List Instr :=
  [.blockDispatch, .allowanceReplenish, .freeRowsApplied, .traceTimeTick] ++
  ((List.range 4).map fun d => .longshoreRequest d) ++
  (s.blocks.flatMap fun p => coreEvents p.1 p.2) ++
  (s.teams.flatMap fun p => teamEvents (p.1 / 16) (p.1 % 16) p.2) ++
  (s.cores.flatMap fun p => ((List.range (p.2.order.length + 1)).map fun k => .homeSliceRequest p.1 k) ++
    (p.2.held.map fun h => .atomicLineRecall p.1 h.1) ++
    (List.range p.2.left.length).map fun k => .storeQueueEntryLeaves p.1 (16 + k)) ++
  (s.hbmReqs.flatMap fun r => ([.clean, .corrected, .uncorrectable] : List EccResult).map fun e => .hbmCompletion r.stack r.tag e) ++
  ((List.range s.walks.length).map fun k => .tableWalkDone k) ++
  (s.xinvs.map fun x => .xinvComplete x.core x.team) ++
  (s.remote.map fun r => .remoteTimeout r.id) ++
  (s.partPend.map fun p => .partitionChangeEffective p.core) ++
  ((List.range s.saved.length).map fun k => .blockRestore k) ++
  ((s.launches.filter fun p => p.2.started.isNone && p.2.rank == 0).map fun p => .startTimeout p.2.ctx p.2.gen) ++
  (s.declared.map fun p => .rowDeclaredLasting (.row p.1 p.2)) ++
  (s.poolDeclared.map fun p => .rowDeclaredLasting (.pool p.1)) ++
  (s.remaps.filter (!·.copied)).map fun r => .remapCopyDone r.stack r.row

/-- The next move: what `sched` has first, else a free choice (entry 1). -/
def State.nextMove (s : State) : State × Option Move :=
  match s.sched with
  | m :: r => ({ s with sched := r }, some m)
  | [] =>
    let ms := s.teamMoves ++ s.seqMoves ++ s.events.map .event
    (s.tick, ms[Config.pick s.fresh % ms.length]?)

end Sys2Proof.Machine
end

