-- ==== Sys2Proof/Machine/Step.lean ====
section
/-! DEFINITION. The step: one move, the next of `State.sched` or a free choice among the moves that some part
of the device could make (entries 1 and 2). -/

namespace Sys2Proof.Machine

/-- One move. -/
def runMove (m : Move) (s : State) : Host.Outcome State Fault Refusal :=
  match m with
  | .event i => exec i s
  | .outside x => .next (s.strike x)
  | .team c t =>
    match s.teamWord c t with
    | (s, some i) => exec i s
    | (s, none) => .next s
  | .seq c =>
    match s.seqWord c with
    | (s, some i) => exec i s
    | (s, none) => .next s

/-- One step of the device. -/
def step (s : State) : Host.Outcome State Fault Refusal :=
  match s.nextMove with
  | (s, some m) => runMove m s
  | (s, none) => .next s

/-- The state with one word placed so that the next step runs it (entry 18). -/
def State.withFetchWord (s : State) (nbits w : Nat) : State :=
  s.placeWord (BitVec.ofNat 32 (w % 2 ^ nbits))

end Sys2Proof.Machine
end

