-- ==== Sys2Proof/Safety.lean ====
section
/-! DEFINITION. The terms in which claims speak: when a team may issue a word, what a word's result and its
frame are, and the invariant of memory that every step keeps. -/

namespace Sys2Proof.Machine

/-- A step that goes on. -/
def Goes (s t : State) : Prop := step s = .next t

/-- Main memory is in its canonical form: addresses rise, and no entry equals what an unlisted address reads. -/
def MemWf (s : State) : Prop := Memory.wf s.mem = true

/-! When a word may have its own effect (R60, R63, R101, R248, R426). -/

/-- The acting team `tm` stands on core `c` as team `t`, runs a path that is not empty, and none of the checks
before the word's own effect stops it: its operand values are legal and it is no 24th word of a clause that goes
on; for a team-wide word no pending path has still to arrive; its registers lie in the allocation, its source
latches are written, and its sources wait for no interlocked result, nor for a window LDP whose trap is due, and have no parity upset
and no failed atomic. -/
structure Ready (s : State) (c t : Nat) (tm : Team) (i : Instr) (z : Bool) (w : Wide) (us : List Use) : Prop where
  cur : s.cur = ⟨c, t⟩
  team : s.team? c t = some tm
  live : tm.status = .live
  lanes : tm.active ≠ []
  legal : i.legal = true
  room : tm.words < 23 ∨ z = true
  joined : tm.gatherFor w = none
  bound : ∀ u ∈ us, tm.bound u = true
  latches : tm.stale us = none
  free : tm.lockers us = []
  onTime : tm.lateRead us = none
  sound : tm.upset us = []
  good : tm.badRead us = []

/-! What a word leaves alone. -/

/-- A team without its registers, flags and latches and without the bookkeeping of the word at issue: the pc, the
clause's words and adverbs, whether its packets are written, the interlock's look number, a gather that has served with
its marks on pending paths, and the clocks that a clause's end starts again. -/
def Team.rest (t : Team) : Team :=
  { t with
    v := [], u := [], k := [], lat := [], latW := [], bad := [], upV := [], upU := []
    pc := 0, advs := [], words := 0, told := false, second := false, pad := none, look := 0
    gathers := [], stack := freshMarks t.stack, begun := []
    readyAt := 0, wdogFrom := 0, wdogElapsed := 0 }

/-- A core without its trace buffer and its datapaths. -/
def Core.rest (x : Core) : Core := { x with trace := .off, dps := [] }

/-- The device without its teams and cores, and without the counter that feeds the free values. -/
def State.rest (s : State) : State := { s with teams := [], cores := [], fresh := 0 }

/-- Nothing but the acting team, its core's trace and its datapath differ: every byte of main memory, every block
with its scratchpad, accumulator storage and barriers, every other team, and the rest of the device stay. -/
structure OnlyTeam (s s' : State) (c t : Nat) : Prop where
  byte : ∀ a, s'.homeByte a = s.homeByte a
  blocks : s'.blocks = s.blocks
  teams : ∀ k, k ≠ 16 * c + t → PMap.get? s'.teams k = PMap.get? s.teams k
  cores : ∀ x, (s'.core x).rest = (s.core x).rest
  rest : s'.rest = s.rest

def SameRegs (tm tm' : Team) : Prop :=
  (∀ l r, r < 1024 → tm'.laneHeld l r = tm.laneHeld l r) ∧ ∀ r, tm'.uniHeld r = tm.uniHeld r
def SameFlags (tm tm' : Team) : Prop := ∀ l k, tm'.flag l k = tm.flag l k
def SameLatches (tm tm' : Team) : Prop := ∀ l e, e < 8 → tm'.latch l e = tm.latch l e

/-- The team stands at the next word; with Z = 1 the clause has ended and its latches are lost (R47). -/
structure Advanced (tm tm' : Team) (z : Bool) : Prop where
  pc : tm'.pc = tm.pc + 4
  advs : tm'.advs = []
  words : tm'.words = if z then 0 else tm.words + 1
  latW : z = true → tm'.latW = []

/-! Results (R44, R45, R182, R198). -/

/-- Register k of a result, low register first. -/
def part (x : DWord) (k : Nat) : Word := (x >>> (32 * k)).setWidth 32

/-- What a lane register holds after a lane instruction: `regs` registers from its destination on hold the result in
every lane that computes; N = 1, another destination or field 63 leaves it as it was. -/
def laneAfter (tm : Team) (d : Opd) (n : Bool) (regs : Nat) (x : Nat → Latch) (l r : Nat) : Reg :=
  match d, n with
  | .v k, false =>
    let b := tm.ix.toNat + k.val
    if l ∈ tm.parts ∧ b ≤ r ∧ r < b + regs then ⟨part (x l).val (r - b), (x l).taint⟩ else tm.laneHeld l r
  | _, _ => tm.laneHeld l r

/-- What a uniform register holds: the result of the lowest active lane. -/
def uniAfter (tm : Team) (d : Opd) (n : Bool) (regs : Nat) (x : Nat → Latch) (r : Nat) : UReg :=
  match d, n with
  | .s k, false =>
    let b := tm.six.toNat + k.val
    if b ≤ r ∧ r < b + regs then ⟨part (x tm.first).val (r - b), maskOf (tm.parts.filter fun l => (x l).taint)⟩ else tm.uniHeld r
  | _, _ => tm.uniHeld r

/-- Every register after a lane instruction. -/
structure Written (tm tm' : Team) (d : Opd) (n : Bool) (regs : Nat) (x : Nat → Latch) : Prop where
  lane : ∀ l r, r < 1024 → tm'.laneHeld l r = laneAfter tm d n regs x l r
  uni : ∀ r, tm'.uniHeld r = uniAfter tm d n regs x r

/-- Latches after a lane instruction: the class latch of each computing lane holds the result, and for class int
the warps of the path keep the result before it in e1 (R45, R46). What the class latch of a lane that did not compute holds
in a warp of the path is not defined (R198). -/
def Latched (tm tm' : Team) (cls : Cls) (x : Nat → Latch) : Prop :=
  ∀ l e, e < 8 → (e = cls.latch → l ∉ tm.parts → warpOf l ∉ tm.warps) → tm'.latch l e =
    if l ∈ tm.parts ∧ e = cls.latch then x l
    else if cls = .int ∧ e = 1 ∧ warpOf l ∈ tm.warps then tm.latch l 0
    else tm.latch l e

/-- WHAT A LANE INSTRUCTION DOES: the acting team goes on at the next word with its result written, and nothing
else changes: no flag, no status bit, no special register, no byte of memory. -/
def LaneWord (i : Instr) (z : Bool) (w : Wide) (us : List Use) (d : Opd) (n : Bool) (regs : Nat) (cls : Cls)
    (x : Team → Nat → Latch) : Prop :=
  ∀ s c t tm, Ready s c t tm i z w us → ∃ s' tm', exec i s = .next s' ∧ s'.team? c t = some tm' ∧
    Advanced tm tm' z ∧ Written tm tm' d n regs (x tm) ∧ Latched tm tm' cls (x tm) ∧
    SameFlags tm tm' ∧ tm'.rest = tm.rest ∧ OnlyTeam s s' c t

/-- WHAT A FLAG INSTRUCTION DOES: one flag index is written in every lane that computes; no register, latch or
other flag changes, nor anything else. -/
def FlagWord (i : Instr) (z : Bool) (w : Wide) (us : List Use) (k : BitVec 3) (x : Team → Nat → Bool) : Prop :=
  ∀ s c t tm, Ready s c t tm i z w us → ∃ s' tm', exec i s = .next s' ∧ s'.team? c t = some tm' ∧
    Advanced tm tm' z ∧
    (∀ l j, tm'.flag l j = if l ∈ tm.parts ∧ j = k then x tm l else tm.flag l j) ∧
    SameRegs tm tm' ∧ SameLatches tm tm' ∧ tm'.rest = tm.rest ∧ OnlyTeam s s' c t

/-- d := f(a, b) at 32 bits, or at 64 with W = 1 (R203). -/
def binary (f : ABW) (g : ∀ n, BitVec n → BitVec n → BitVec n) (t : Team) (l : Nat) : Latch :=
  let a := t.read f.w l f.a
  let b := t.read f.w l f.b
  ⟨if f.w then g 64 a.val b.val else (g 32 (a.val.setWidth 32) (b.val.setWidth 32)).setWidth 64, a.taint || b.taint⟩

/-- d := f(a, c), the count c in the low five bits of b, or the low six with W = 1; b is one register. -/
def counted (f : ABW) (g : ∀ n, BitVec n → Nat → BitVec n) (t : Team) (l : Nat) : Latch :=
  let a := t.read f.w l f.a
  let b := t.read false l f.b
  ⟨if f.w then g 64 a.val (b.val.toNat % 64) else (g 32 (a.val.setWidth 32) (b.val.toNat % 32)).setWidth 64,
    a.taint || b.taint⟩

/-- d := f(a). -/
def unary (f : AW) (g : ∀ n, BitVec n → BitVec n) (t : Team) (l : Nat) : Latch :=
  let a := t.read f.w l f.a
  ⟨if f.w then g 64 a.val else (g 32 (a.val.setWidth 32)).setWidth 64, a.taint⟩

/-- d := f(a, b) on 32-bit sources. -/
def binary32 (a b : Opd) (g : Word → Word → DWord) (t : Team) (l : Nat) : Latch :=
  let x := t.read false l a
  let y := t.read false l b
  ⟨g (x.val.setWidth 32) (y.val.setWidth 32), x.taint || y.taint⟩

/-- WHAT AN INSTRUCTION ON ONE SPECIAL REGISTER DOES: the team is changed by `g`, and no register, flag, latch or
anything else. -/
def TeamWord (i : Instr) (z : Bool) (us : List Use) (g : Team → Team) : Prop :=
  ∀ s c t tm, Ready s c t tm i z .no us → ∃ s' tm', exec i s = .next s' ∧ s'.team? c t = some tm' ∧
    Advanced tm tm' z ∧ SameRegs tm tm' ∧ SameFlags tm tm' ∧ SameLatches tm tm' ∧
    tm'.rest = (g tm).rest ∧ OnlyTeam s s' c t

/-! Divides and conditions (R205 to R207, R212). -/

/-- The STATUS bits a lane of a divide sets (Table 12.4: bit 0 DZ, bit 1 OV). -/
def divStatus (tm : Team) (f : ABW) (signed rem : Bool) (l : Nat) : BitVec 2 :=
  let a := (tm.read f.w l f.a).val
  let b := (tm.read f.w l f.b).val
  if f.w then (divide signed rem a b).2 else (divide signed rem (a.setWidth 32) (b.setWidth 32)).2

/-- A divide has done its work on the team: every lane's result is written, and each active lane has its STATUS bit
on top of what it held. The pc and the clause are as the two callers say. -/
structure Divided (tm tm' : Team) (f : ABW) (signed rem : Bool) : Prop where
  result : Written tm tm' f.d f.n (if f.w then 2 else 1) (binary f (fun _ a b => (divide signed rem a b).1) tm)
  latch : Latched tm tm' .mul (binary f (fun _ a b => (divide signed rem a b).1) tm)
  status : ∀ l, tm'.status2 l = if l ∈ tm.active then tm.status2 l ||| divStatus tm f signed rem l else tm.status2 l
  flags : SameFlags tm tm'
  rest : { tm'.rest with stat := [] } = { tm.rest with stat := [] }

/-- Condition cc of R205 and R212 at one width. -/
def condition {n : Nat} (c : Cond) (a b : BitVec n) : Bool :=
  match c with
  | .eq => a == b
  | .ne => a != b
  | .lt => decide (a.toInt < b.toInt)
  | .le => decide (a.toInt ≤ b.toInt)
  | .gt => decide (a.toInt > b.toInt)
  | .ge => decide (a.toInt ≥ b.toInt)
  | .ltu => decide (a.toNat < b.toNat)
  | .leu => decide (a.toNat ≤ b.toNat)
  | .gtu => decide (a.toNat > b.toNat)
  | .geu => decide (a.toNat ≥ b.toNat)

/-! Rounding (R186, R189, Table 11.9). -/

/-- The magnitude code p of a format counts this many units of 2^`low`; the codes go on past the infinity, as if the
exponent had no end. -/
def units (f : Num.Fmt) (p : Nat) : Nat :=
  if p / 2 ^ f.fw = 0 then p else (2 ^ f.fw + p % 2 ^ f.fw) * 2 ^ (p / 2 ^ f.fw - 1)

/-- CORRECT ROUNDING of a magnitude: `x k u` compares it with k × 2^u; p is the greatest code not above it, and the
code is the neighbour that Table 11.9 names for the mode and the sign. -/
def Rounds (f : Num.Fmt) (r : Rnd) (neg : Bool) (x : Nat → Int → Ordering) (code : Nat) : Prop :=
  ∃ p, x (units f p) f.low ≠ .lt ∧ x (units f (p + 1)) f.low = .lt ∧
    let exact := x (units f p) f.low = .eq
    let away := if exact then min p f.infBits else min (p + 1) f.infBits
    let toward := min p (f.infBits - 1)
    code = match r with
      | .rz => toward
      | .ru => if neg then toward else away
      | .rd => if neg then away else toward
      | .ro => if f.infBits ≤ p then f.infBits - 1 else if exact ∨ p % 2 = 1 then p else p + 1
      | .rn => if f.infBits ≤ p then f.infBits else match x (units f p + units f (p + 1)) (f.low - 1) with
        | .lt => p
        | .gt => p + 1
        | .eq => if p % 2 = 0 then p else p + 1

/-- Table 11.13: the magnitude of each SHELF8 code, in units of 2^-21, row after row. -/
def shelfTable : List Nat :=
  [0, 2 ^ 42, 1, 2 ^ 41, 2, 4, 2 ^ 39, 2 ^ 40, 8, 16, 32, 64, 2 ^ 35, 2 ^ 36, 2 ^ 37, 2 ^ 38] ++
  ((List.range 8).map fun k => 2 ^ (7 + k)) ++ ((List.range 8).map fun k => 2 ^ (27 + k)) ++
  ([13, 14, 15, 16].flatMap fun k => [4 * 2 ^ k, 5 * 2 ^ k, 6 * 2 ^ k, 7 * 2 ^ k]) ++
  ([21, 22, 23, 24].flatMap fun k => [4 * 2 ^ k, 5 * 2 ^ k, 6 * 2 ^ k, 7 * 2 ^ k]) ++
  [15, 16, 17, 18].flatMap fun k => (List.range 16).map fun i => (16 + i) * 2 ^ k

/-- m × 2^e, 1 / (m × 2^e) and the square root of m × 2^e, compared with k × 2^u. -/
def dyadicCmp (m : Nat) (e : Int) (k : Nat) (u : Int) : Ordering :=
  compare (m * 2 ^ (e - min e u).toNat) (k * 2 ^ (u - min e u).toNat)
def recipCmp (m : Nat) (e : Int) (k : Nat) (u : Int) : Ordering :=
  compare (2 ^ (-(u + e)).toNat) (k * m * 2 ^ (u + e).toNat)
def rootCmp (m : Nat) (e : Int) (k : Nat) (u : Int) : Ordering := dyadicCmp m e (k * k) (2 * u)

/-- An FP32 word holds the value i × 2^u. -/
def holdsValue (w : Word) (i u : Int) : Bool :=
  match Num.fp32.decode w.toNat with
  | .fin s m e => Num.scaled s m e (min e u) == i * 2 ^ (u - min e u).toNat
  | _ => false

/-- The rounding mode of a word that ADV.RND may modify. -/
def mode (t : Team) : Rnd := (t.advs.findSome? fun a => match a with | .rnd r => some r | _ => none).getD .rn

/-- d := g(a, b) or g(a, b, d) on values of one format, in pairs for FP64. -/
def floats2 (m : Num.Fmt) (pair : Bool) (f : AB) (g : Rnd → Num.Val → Num.Val → Num.Val) (t : Team) (l : Nat) : Latch :=
  let a := t.read pair l f.a
  let b := t.read pair l f.b
  ⟨BitVec.ofNat 64 (m.round (mode t) (g (mode t) (m.decode a.val.toNat) (m.decode b.val.toNat))), a.taint || b.taint⟩
def floats3 (m : Num.Fmt) (pair : Bool) (f : AB) (g : Rnd → Num.Val → Num.Val → Num.Val → Num.Val) (t : Team) (l : Nat) :
    Latch :=
  let a := t.read pair l f.a
  let b := t.read pair l f.b
  let d := t.read pair l f.d
  ⟨BitVec.ofNat 64 (m.round (mode t)
    (g (mode t) (m.decode a.val.toNat) (m.decode b.val.toNat) (m.decode d.val.toNat))), a.taint || b.taint || d.taint⟩

/-- The smaller (lo) or the larger of two patterns: a number before a NaN, -0 below +0, the canonical NaN for two NaNs. -/
def chosen (m : Num.Fmt) (lo : Bool) (a b : Nat) : Nat :=
  match m.decode a, m.decode b with
  | .nan, .nan => m.nanBits
  | .nan, _ => b
  | _, .nan => a
  | x, y => match x.cmp y with
    | .lt => if lo then a else b
    | .gt => if lo then b else a
    | .eq => if (lo && a.testBit (m.ew + m.fw)) || (!lo && !a.testBit (m.ew + m.fw)) then a else b

/-- One 16-bit element of a packed word. -/
def elementOf (x : DWord) (i : Nat) : Nat := x.toNat / 2 ^ (16 * i) % 2 ^ 16

/-- Both elements computed apart. -/
def bothElements (g : Nat → Nat) : DWord := BitVec.ofNat 64 (g 0 + 2 ^ 16 * g 1)

/-! Cross-lane words (R237 to R246). -/

/-- Lane position q of the same warp where that lane contributes, else the lane itself. -/
def pickedLane (t : Team) (l : Nat) (q : Option Nat) : Nat :=
  match q with
  | some q => if 32 * (l / 32) + q ∈ t.parts then 32 * (l / 32) + q else l
  | none => l

/-- The active lanes of a lane's warp, in order. -/
def warpMates (t : Team) (l : Nat) : List Nat := t.active.filter fun m => m / 32 == l / 32

/-- The lane that begins the segment of a lane: the last active lane up to it that the head flag marks, else the
lowest of the warp (R244). -/
def segmentHead (t : Team) (h : BitVec 3) (l : Nat) : Nat :=
  ((warpMates t l).filter fun m => decide (m ≤ l) && t.flag m h).getLastD ((warpMates t l).headD 0)

/-- The active lanes reduced for a lane by RED, SEGRED, SCAN and WRED. -/
def redSet (t : Team) (l : Nat) : List Nat := warpMates t l
def segSet (h : BitVec 3) (t : Team) (l : Nat) : List Nat :=
  (warpMates t l).filter fun m => segmentHead t h m == segmentHead t h l
def scanSet (t : Team) (l : Nat) : List Nat := (warpMates t l).filter fun m => decide (m ≤ l)
def wredSet (t : Team) (_ : Nat) : List Nat := t.active

/-- The fixed tree of R242 over positions 0 to 2^m - 1 from a base lane on, over a set of lanes; nothing for a set
that is empty. -/
def fixedTree (t : Team) (op : RedOp) (a : Opd) (m base : Nat) (set : List Nat) : Option Word :=
  treeNode op (fun q => if base + q ∈ set then some ((t.read false (base + q) a).val.setWidth 32) else none) m 0

/-- What a reduction writes in a lane: the tree over its set, or its own a where the set is empty. -/
def reduced (f : RedF) (m : Nat) (set : Team → Nat → List Nat) (t : Team) (l : Nat) : Latch :=
  match fixedTree t f.op f.a m (if m = 5 then 32 * (l / 32) else 0) (set t l) with
  | some x => ⟨x.setWidth 64, (set t l).any fun k => (t.read false k f.a).taint⟩
  | none => t.read false l f.a

/-! Taking a trap (R391 to R393, R397, R398, Table 20.4). -/

/-- The registers a handler cannot have changed: below the allotment, and the uniform ones below 56. -/
def KeptRegs (tm tm' : Team) : Prop :=
  (∀ l r, r < 1024 → r < tm.allot → tm'.laneHeld l r = tm.laneHeld l r) ∧ ∀ r, r < 56 → tm'.uniHeld r = tm.uniHeld r

/-- THE TEAM HAS ENTERED ITS HANDLER for the trap `k`: `tm` is the team as the trap found it, its store queue drained.
It runs at P1 from TVEC on a new clause, with the handler's windows; what TRET and SKIP need is kept; the registers of
Table 20.7 describe the trap; its own registers, flags, STATUS bits and counters stand. -/
structure Entered (tm tm' : Team) (tvec : DWord) (k : Trap) : Prop where
  privileged : tm'.p1 = true ∧ tm'.status = .live
  pc : tm'.pc = tvec
  clause : tm'.words = 0 ∧ tm'.advs = [] ∧ tm'.latW = []
  windows : tm'.tix = tm.ix ∧ tm'.tsix = tm.six ∧ tm'.ix = BitVec.ofNat 9 tm.allot ∧ tm'.six = 56
  lanes : tm'.act = tm.act ||| k.mask.getD 0
  stack : tm'.stack = .handler :: tm.stack
  cause : tm'.trapcause = causeWord k.cause k.defer k.ovf k.arg
  place : tm'.fpc = k.pc.getD tm.wordPc ∧ tm'.faddr = BitVec.ofNat 64 k.addr ∧ tm'.flane = k.mask.getD tm.act ∧ tm'.xfault = k.xfault
  entries : tm'.xsel = 0 ∧ tm'.xcount = if k.entry.isSome then tm.faults.length else 0
  resume : ∃ fr, tm'.frame = some fr ∧ fr.mask = tm.act ∧ fr.kind = k.kind ∧ fr.cause = k.cause ∧
    fr.skipped = false ∧ (fr.resume, fr.skipTo) = tm.resumes k.after k.kind ∧ fr.addr = k.addr ∧ fr.redo = k.redo
  regs : KeptRegs tm tm'
  flags : SameFlags tm tm'
  status : ∀ l, tm'.status2 l = tm.status2 l
  special : tm'.addrhi = tm.addrhi ∧ tm'.trapen = tm.trapen ∧ tm'.cestat = tm.cestat ∧ tm'.ac = tm.ac ∧ tm'.iter = tm.iter

/-- WHERE A WORD TRAPS: with the team at P0 and a handler installed, the team enters it for the trap `k`. `s0` is the
device with the team's store queue drained at CORE scope, and with the waits ended that what left it ends; `tm0` is the team
there; nothing else differs from it. -/
def TrapsFrom (s : State) (c t : Nat) (tm : Team) (k : Trap) (o : Host.Outcome State Fault Refusal) : Prop :=
  tm.p1 = false → s.tvec c ≠ 0 → ∀ sd s0 tm0, s.drain c t drainFuel = some sd → s0 = (if tm.sq = [] then sd else sd.settle) →
    s0.team? c t = some tm0 →
    ∃ s' tm', o = .next s' ∧ s'.team? c t = some tm' ∧ Entered tm0 tm' (s0.tvec c) k ∧ OnlyTeam s0 s' c t

/-! Paths (R334 to R346) and waits (R372). -/

/-- THE TEAM GOES ON ON A PATH: it stands at an address with a mask, at the first word of a new clause, over a stack;
its registers and flags are kept. -/
structure Runs (tm tm' : Team) (pc : DWord) (act : LaneMask) (stack : List StackEntry) : Prop where
  live : tm'.status = tm.status
  pc : tm'.pc = pc
  act : tm'.act = act
  stack : tm'.stack = stack
  clause : tm'.words = 0 ∧ tm'.advs = [] ∧ tm'.latW = []
  regs : SameRegs tm tm'
  flags : SameFlags tm tm'

/-- Nothing of the team but its place differs: see `Runs`. -/
def OnlyPlace (tm tm' : Team) : Prop := { tm'.rest with act := 0, stack := [] } = { tm.rest with act := 0, stack := [] }

/-- A word with a pop flag does not arrive at the topmost join here. -/
def NoPop (p : Bool) (tm : Team) : Prop := p = false ∨ topJoin tm.stack ≠ some tm.pc

/-- The address a word of format B names. -/
def branchTarget (tm : Team) (off : BitVec 21) : DWord := BitVec.ofInt 64 (tm.pc.toInt + 4 * off.toInt)

/-- The target of a lane under BRX and CALLX. -/
def laneTarget (tm : Team) (a : Opd) (l : Nat) : DWord :=
  BitVec.ofNat 64 (tm.pc.toNat / 2 ^ 32 * 2 ^ 32 + ((tm.read false l a).val.setWidth 32).toNat)

/-- The active lanes with a flag set, as a mask. -/
def flagged (tm : Team) (k : BitVec 3) : LaneMask := maskOf (tm.active.filter fun l => tm.flag l k)

/-- No trap of the clause boundary is due that would take a team out of a wait at once (R277, R411). -/
def NothingDue (s : State) (c : Nat) (tm : Team) : Prop :=
  tm.wdogDue = false ∧ tm.gathering = false ∧ ∀ b, s.block? c = some b → b.seq.trap = none

/-- THE TEAM HAS PARKED with a wait word, at the word it waits at; its registers and flags are kept. -/
structure Parked (tm tm' : Team) (w : WaitWord) : Prop where
  status : tm'.status = .parked
  wait : tm'.wait = w
  pc : tm'.pc = tm.wordPc
  regs : SameRegs tm tm'
  flags : SameFlags tm tm'

/-- WHAT A LANE INSTRUCTION THAT READS ANOTHER LANE'S REGISTER DOES: `from_` is the lane whose field `o` a lane reads. It
parks while such a register awaits the result of an atomic or a window LDP (R63). With every such register sound it then does what
a lane instruction does; else it traps with Poisoned Data, precise, its fault mask the active lanes whose register fails the parity
(R426). No window LDP whose trap is due owes such a register. -/
def LaneWordFrom (i : Instr) (z : Bool) (w : Wide) (us : List Use) (o : Opd) (from_ : Team → Nat → Nat) (d : Opd) (n : Bool)
    (regs : Nat) (cls : Cls) (x : Team → Nat → Latch) : Prop :=
  ∀ s c t tm, Ready s c t tm i z w us →
    let src := fun (t : Team) l => [(o, from_ t l)]
    let upset := tm.active.filter fun l => tm.parity (from_ tm l) o 1
    (tm.crossLock src ≠ [] → NothingDue s c tm →
      ∃ s' tm', exec i s = .next s' ∧ s'.team? c t = some tm' ∧ Parked tm tm' ⟨.lock, 0, 0⟩ ∧ OnlyTeam s s' c t) ∧
    (tm.crossLock src = [] → tm.crossLate src = none → upset = [] → tm.crossBad src = [] → ∃ s' tm', exec i s = .next s' ∧ s'.team? c t = some tm' ∧
      Advanced tm tm' z ∧ Written tm tm' d n regs (x tm) ∧ Latched tm tm' cls (x tm) ∧
      SameFlags tm tm' ∧ tm'.rest = tm.rest ∧ OnlyTeam s s' c t) ∧
    (tm.crossLock src = [] → tm.crossLate src = none → upset ≠ [] →
      TrapsFrom s c t tm { cause := .poisonedData, kind := .precise, mask := some (maskOf upset) } (exec i s))

/-- A team but for the end of a wait, and for its record of the sectors that it reads past a copy in the L1. -/
def Team.asleep (t : Team) : Team :=
  { t with status := if t.status = .parked then .live else t.status, wait := noWait, left := noWait, seqDue := false, readyAt := 0, homeSeen := [] }

/-- Main memory stays, and every other team, but for waits that end and L1 copies that are renewed. -/
structure OthersStay (s s' : State) (c t : Nat) : Prop where
  byte : ∀ a, s'.homeByte a = s.homeByte a
  teams : ∀ k, k ≠ 16 * c + t → (PMap.get? s'.teams k).map Team.asleep = (PMap.get? s.teams k).map Team.asleep

/-! Ordered REFILLs (R352). -/

/-- A run that begins at a ticket: held lanes in ascending order, of consecutive iterations, as many as follow on. -/
structure RunFrom (iter : Nat → Nat) (held : List Nat) (t : Nat) (run : List Nat) : Prop where
  nonempty : run ≠ []
  members : ∀ l ∈ run, l ∈ held
  rising : run.Pairwise (· < ·)
  tickets : run.map iter = List.range' t run.length
  full : ∀ h ∈ held, iter h = t + run.length → ∃ l ∈ run, h ≤ l

/-- The smallest iteration of some lanes, or the next of the range where there is none. -/
def Least (iter : Nat → Nat) (next : Nat) (ls : List Nat) (t : Nat) : Prop :=
  (ls = [] → t = next) ∧ (ls ≠ [] → (∃ l ∈ ls, iter l = t) ∧ ∀ l ∈ ls, t ≤ iter l)

/-- The ordered runs from a ticket on that the held lanes make beside the lanes that go on, and the lanes still held. -/
inductive OrderedRuns (iter : Nat → Nat) (cont : List Nat) (next : Nat) : Nat → List Nat → List (List Nat) → List Nat → Prop
  | done (t : Nat) (held : List Nat) : (∀ h ∈ held, iter h ≠ t) → OrderedRuns iter cont next t held [] held
  | run (t t' : Nat) (held run : List Nat) (runs : List (List Nat)) (left : List Nat) : RunFrom iter held t run →
      Least iter next (cont ++ held.filter fun h => !run.contains h) t' →
      OrderedRuns iter cont next t' (held.filter fun h => !run.contains h) runs left →
      OrderedRuns iter cont next t held (run :: runs) left

/-- A word of LPAD with a tag stands at a lane's indirect target. -/
def State.lands (s : State) (c : Nat) (tm : Team) (f : IndF) (l : Nat) : Bool :=
  match s.lookAt c (laneTarget tm f.a l) tm.p1 with
  | some w => match decode w with
    | .ok (.lpad g _) => g == f.tag
    | _ => false
  | none => false

/-! Memory words (R141 to R161, R296 to R316). -/

/-- The address of a lane (R141): ADDRHI above the base register, plus a byte offset, modulo 2^64. -/
def laneAddress (t : Team) (a : Opd) (off : Int) (l : Nat) : Nat :=
  ((t.addrhi.toNat * 2 ^ 32 + ((t.read false l a).val.setWidth 32).toNat + off : Int) % 2 ^ 64).toNat

/-- A scratchpad address of a lane (R160): the base register plus a byte offset, modulo 2^32. -/
def padAddress (t : Team) (a : Opd) (off : Nat) (l : Nat) : Nat :=
  (((t.read false l a).val.setWidth 32).toNat + off) % 2 ^ 32

/-- WHERE ADDRESSES TRAP (R60, R146, R302, R310): a multiple of the size is asked of every lane first, then an address
below 2^56; the trap names every lane that fails the check, and the lowest one's address. -/
def AddressTraps (s : State) (c t : Nat) (tm : Team) (size : Nat) (va : Nat → Nat) (canonical : Bool)
    (o : Host.Outcome State Fault Refusal) : Prop :=
  let mis := tm.active.filter fun l => va l % size != 0
  let non := tm.active.filter fun l => decide (2 ^ 56 ≤ va l)
  (∀ l r, mis = l :: r →
    TrapsFrom s c t tm { cause := .misaligned, kind := .precise, addr := va l, mask := some (maskOf mis) } o) ∧
  (canonical = true → mis = [] → ∀ l r, non = l :: r →
    TrapsFrom s c t tm { cause := .nonCanonical, kind := .precise, addr := va l, mask := some (maskOf non) } o)

/-- The values that the registers hold, their taint apart. -/
def SameValues (tm tm' : Team) (ls : List Nat) : Prop :=
  (∀ l ∈ ls, ∀ r, r < 1024 → (tm'.laneHeld l r).val = (tm.laneHeld l r).val) ∧ ∀ r, (tm'.uniHeld r).val = (tm.uniHeld r).val

/-- Word k of a number that lies in memory from its low byte on. -/
def wordOf (x k : Nat) : Word := BitVec.ofNat 32 (x / 2 ^ (32 * k))

/-- THE ENTRIES OF A MEMORY WORD ARE QUEUED, in order, one for each warp of the path; the team goes on at the next word
with its registers, flags and latches as they were, and main memory keeps every byte. -/
structure Queued (s s' : State) (c t : Nat) (tm tm' : Team) (z : Bool) (entries : List SqEntry) : Prop where
  next : Advanced tm tm' z
  queue : tm'.sq = tm.sq ++ entries
  seq : tm'.seq = tm.seq + 1
  regs : SameRegs tm tm'
  flags : SameFlags tm tm'
  latches : SameLatches tm tm'
  team : { tm'.rest with sq := [], seq := 0, atoms := [] } = { tm.rest with sq := [], seq := 0, atoms := [] }
  others : OnlyTeam s s' c t

/-- The active lanes of a warp. -/
def lanesIn (t : Team) (w : Nat) : List Nat := t.active.filter fun l => l / 32 == w

/-- The low bytes of a number. -/
def lowBytes (n x : Nat) : List Byte := (List.range n).map fun k => BitVec.ofNat 8 (x / 2 ^ (8 * k))

/-- Every lane's address is translated by a leaf that its core or its quadrant holds, with the right for the access; `pa`
gives the physical address. -/
def Translated (s : State) (c : Nat) (tm : Team) (acc : Access) (va pa : Nat → Nat) : Prop :=
  ∀ l ∈ tm.active, va l < 2 ^ 56 ∧ ∃ e, s.tlbHit c (s.ctxOf c) (va l) = some e ∧ s.leafAccess e (va l) acc tm.p1 = .ok (pa l)

/-- No FENCE stands in the team's queue (R320), the queue has room for one entry for each warp (R305), and a release at
DOMAIN or SYSTEM scope has no failure to raise (R100). -/
def QueueOpen (tm : Team) (rel : Option Scope) : Prop :=
  tm.fenced = false ∧ tm.sq.length + tm.warps.length ≤ Config.storeQueue ∧
  (rel = some .domain ∨ rel = some .system → tm.failed = [])

/-- The scope and order of the ADV.SCOPE that stands before a word, DEVICE and none without one (R52). -/
def scopeOrder (t : Team) : Scope × Order :=
  (t.advs.findSome? fun a => match a with | .scope s o => some (s, o) | _ => none).getD (.device, .none)

/-- What some writes on their way to their home leave at a local address: the last one's byte. -/
def pendingByte (s : State) (ws : List HomeWrite) (a : Nat) : Option Byte :=
  ws.foldl (fun v w => if s.localSector w = some (a / 64) then
    match PMap.get? w.bytes (a % 64) with
    | some b => some b
    | none => v
    else v) none

/-- What the lanes of a store leave at an address: the highest lane's byte (R126). -/
def laneByte (ls : List LaneStore) (a : Nat) : Option Byte :=
  ls.foldl (fun v x => if x.pa ≤ a ∧ a < x.pa + x.bytes.length then x.bytes[a - x.pa]? else v) none

/-- What bytes laid over pieces, one piece after the other, leave at an address. -/
def spreadByte : List (Nat × Nat) → List Byte → Nat → Option Byte
  | [], _, _ => none
  | p :: r, bs, a => match spreadByte r (bs.drop p.2) a with
    | some b => some b
    | none => if p.1 ≤ a ∧ a < p.1 + p.2 then (bs.take p.2)[a - p.1]? else none

/-- Table 16.4 at a width: the new value from the old one, the operand and the compare value; none where nothing is
written. -/
def atomTable (n : Nat) (op : AtomOp) (x y d : Nat) : Option Nat :=
  let s (v : Nat) : Int := (BitVec.ofNat n v).toInt
  match op with
  | .add => some ((x + y) % 2 ^ n)
  | .min => some (if s y < s x then y else x)
  | .max => some (if s x < s y then y else x)
  | .and => some (x &&& y)
  | .or => some (x ||| y)
  | .xor => some (x ^^^ y)
  | .xchg => some y
  | .cas => if x = d then some y else none

/-! The matrix sequencer (R250 to R294). -/

/-- The sequencer of core `c` may execute a word: it has not ended, its last word has not executed, it has no trap, its block
is not being stopped, and the word's operands are legal. -/
structure SeqReady (s : State) (c : Nat) (b : Block) (i : Instr) : Prop where
  cur : s.cur.core = c
  block : s.block? c = some b
  running : b.seq.ended = false ∧ b.seq.last = false ∧ b.seq.trap = none ∧ b.stopping = false
  legal : i.legal = true

/-- No loop of the stream ends at the word. -/
def NoLoopEnd (q : Sequencer) : Prop := ∀ x r, q.loops = x :: r → x.last ≠ q.pc

/-- Nothing but one block's sequencer differs: its scratchpad, accumulator storage and barriers, its copies, every other
block, every team but for waits that end, and every byte of main memory stay. -/
structure OnlySeq (s s' : State) (c : Nat) (b b' : Block) : Prop where
  block : { b' with seq := b.seq } = b
  blocks : ∀ k, k ≠ c → PMap.get? s'.blocks k = PMap.get? s.blocks k
  teams : ∀ k, (PMap.get? s'.teams k).map Team.asleep = (PMap.get? s.teams k).map Team.asleep
  byte : ∀ a, s'.homeByte a = s.homeByte a

/-- WHAT A MATRIX WORD DOES: the sequencer is changed by `g` and stands at the next word; with Z = 1 the stream has ended,
and the sequencer with it unless an engine instruction runs (R250, R252). -/
def SeqWord (i : Instr) (z : Bool) (g : Sequencer → Sequencer) : Prop :=
  ∀ s c b, SeqReady s c b i → z = true ∨ NoLoopEnd b.seq →
    ∃ s' b', exec i s = .next s' ∧ s'.block? c = some b' ∧ OnlySeq s s' c b b' ∧
      b'.seq = if z then { g b.seq with last := true, loops := [], parked := false, ended := (g b.seq).engine.isNone }
        else { g b.seq with pc := b.seq.pc + 4, parked := false }

/-- The word has not executed: its trap stands recorded, and the sequencer is otherwise as it was (R276). -/
def SeqTraps (s : State) (c : Nat) (b : Block) (cause : Cause) (arg addr : Nat) (o : Host.Outcome State Fault Refusal) : Prop :=
  ∃ s' b', o = .next s' ∧ s'.block? c = some b' ∧
    b'.seq = { b.seq with trap := some ⟨cause, arg, addr % 2 ^ 32, addr % 2 ^ 32, 0, false⟩, msqaddr := BitVec.ofNat 32 addr, parked := false } ∧
    { b' with seq := b.seq } = b ∧ (∀ a, s'.homeByte a = s.homeByte a) ∧ ∀ k, k ≠ c → PMap.get? s'.blocks k = PMap.get? s.blocks k

/-- The bytes an engine instruction writes (R264, R272, R274, R290): whether of accumulator storage, and rows of a length at a
pitch from a base. -/
def EngineOp.writes : EngineOp → List (Bool × Nat × Nat × Nat × Nat)
  | .bf n vecs _ _ _ dst dp _ _ y _ => [(y == .acc, dst, dp, vecs, n * yfBytes y)]
  | .bft m n _ _ _ c cp _ _ _ _ _ => [(true, c, cp, m, 4 * n)]
  | .mcopy dir _ dst len => [(dir == .sa || dir == .aa, dst, 0, 1, len)]
  | .sscan l p n _ _ _ _ _ _ y yp _ h _ yf => [(false, y, yp, l, p * yfBytes yf), (true, h, 16 * ((n + 3) / 4), p, 4 * n)]

/-- An offset lies in none of the rows of its storage. -/
def EngineOp.spares (op : EngineOp) (acc : Bool) (o : Nat) : Prop :=
  ∀ w ∈ op.writes, w.1 = acc → ∀ v, v < w.2.2.2.1 → ¬(w.2.1 + v * w.2.2.1 ≤ o ∧ o < w.2.1 + v * w.2.2.1 + w.2.2.2.2)

/-! The device's own steps. -/

/-- The Harbour is reached over some port and has nothing of its own to do: no packet waits for an armed launch, and no
session holds a command. -/
def HarbourIdle (s : State) : Prop := s.linked = true ∧ s.armWait = [] ∧ ∀ p ∈ s.sessions, p.2.held = []

/-- A ready team of a datapath goes before another (R369): one passed over 16 times first, then the higher priority, which a
handler has, then the one ready longer, one whose last clause did not end with a YIELD (R382), then the lower number. -/
def GoesBefore (a b : Nat × Team) : Prop :=
  let late (x : Nat × Team) : Prop := 16 ≤ x.2.passOver
  let prio (x : Nat × Team) : Nat := if x.2.p1 then 4 else x.2.prio
  (late a ∧ ¬late b) ∨ ((late a ↔ late b) ∧
    ((¬late a ∧ prio b < prio a) ∨ ((late a ∨ prio a = prio b) ∧
      (a.2.readyAt < b.2.readyAt ∨ (a.2.readyAt = b.2.readyAt ∧ ((a.2.yielded = false ∧ b.2.yielded = true) ∨
        (a.2.yielded = b.2.yielded ∧ a.1 ≤ b.1)))))))

/-- A command's turn has come (R84): its session exists, is not busy and expects its SEQ; nothing turns it away (R85). -/
structure Turn (s : State) (c : Cmd) (opc : BitVec 8) (x : Session) : Prop where
  session : PMap.get? s.sessions c.sess = some x
  idle : HarbourIdle s
  free : x.busy = false
  seq : x.next = c.hdr.seq.toNat
  allowed : turnedAway x.grant { c.hdr with opc := opc } = none

/-- The command has been answered (R83, R84): the reply is sent, with its status, a zero word and its data, and the next SEQ
is expected. -/
def Answered (s s' : State) (c : Cmd) (opc : BitVec 8) (x : Session) (status : Nat) (data : List Word) : Prop :=
  s'.outbox = s.outbox ++ [.reply c.sess { c.hdr with opc := opc, len := BitVec.ofNat 16 (4 * (data.length + 2)) }
    (BitVec.ofNat 32 status :: 0 :: data)] ∧
  ∃ x', PMap.get? s'.sessions c.sess = some x' ∧ x'.next = (x.next + 1) % 2 ^ 32 ∧ x'.busy = false ∧ x'.grant = x.grant

/-- The command is being performed; its reply is still to come. -/
def Held (s s' : State) (c : Cmd) (x : Session) : Prop :=
  PMap.get? s'.sessions c.sess = some { x with busy := true } ∧ HarbourIdle s' ∧
    ∀ k, k ≠ c.sess → PMap.get? s'.sessions k = PMap.get? s.sessions k

/-- The words of Table 20.9, as lane l of a team reads them. -/
def systemRegisters (s : State) (c t : Nat) (tm : Team) (l : Nat) : List (Nat × Word) :=
  let hi (x : DWord) : Word := BitVec.ofNat 32 (x.toNat / 2 ^ 32)
  let lo (x : DWord) : Word := BitVec.ofNat 32 x.toNat
  let q := (s.block? c).map (·.seq)
  let troot := ((PMap.get? s.ctxs (s.ctxOf c)).map (·.troot)).getD 0
  [(0, BitVec.ofNat 32 l), (1, BitVec.ofNat 32 t), (2, BitVec.ofNat 32 tm.wordMask), (3, (PMap.get? tm.iter l).getD 0),
    (4, tm.rangeNext), (5, tm.rangeEnd), (6, if (frameOf tm.stack).isSome then tm.ticket else tm.rangeNext),
    (7, lo tm.arg), (8, hi tm.arg), (9, tm.addrhi), (10, (tm.status2 l).setWidth 32), (11, tm.trapen.setWidth 32),
    (12, tm.cestat.setWidth 32), (13, tm.sgmask.setWidth 32),
    (14, match q with
      | none => 1
      | some q => BitVec.ofNat 32 (bnum q.ended + 2 * bnum q.parked + 4 * bnum q.trap.isSome)),
    (15, match q with
      | none => 0
      | some q => (q.pc - q.base).setWidth 32),
    (32, tm.trapcause), (33, lo tm.fpc), (34, hi tm.fpc), (35, lo tm.faddr), (36, hi tm.faddr),
    (37, if tm.flane.getLsbD l then 1 else 0), (38, tm.xfault), (42, lo troot), (43, hi troot),
    (44, match q with
      | none => 0
      | some q => q.msqaddr),
    (45, lo (s.tvec c)), (46, hi (s.tvec c)), (47, tm.tix.setWidth 32), (48, tm.tsix.setWidth 32), (49, tm.htoken)]

end Sys2Proof.Machine
end

