-- ==== Sys2Proof/Certificates/Slice0/Obligations.lean ====
section
/-! DEFINITION. The statements about the model, each from the numbered rules of the spec. -/

open Sys2Proof Sys2Proof.Machine

/-! Integer, bit, compare, select and move words (R198 to R217). -/

/-- R203, Table 12.1: each word of major 0x00 writes f(a, b) modulo 2^width, the counts cut to the width, and
nothing else; N = 1 and field 63 write no register, the class latch keeps the result (R45, R46). ABS and NEG of the most
negative value give it back (R203); MOV copies (R214). -/
def Obligations.IntegerAlu : Prop :=
  (∀ f : ABW,
    let three := [srcP f.a f.w, srcP f.b f.w, dstP f.d f.w]
    let single := [srcP f.a f.w, src1 f.b, dstP f.d f.w]
    let pairs (i : Instr) (g : ∀ n, BitVec n → BitVec n → BitVec n) : Prop :=
      LaneWord i f.z .no three f.d f.n (if f.w then 2 else 1) .int (binary f g)
    let counts (i : Instr) (g : ∀ n, BitVec n → Nat → BitVec n) : Prop :=
      LaneWord i f.z .no single f.d f.n (if f.w then 2 else 1) .int (counted f g)
    pairs (.add f) (fun _ a b => a + b) ∧
    pairs (.sub f) (fun _ a b => a - b) ∧
    pairs (.and f) (fun _ a b => a &&& b) ∧
    pairs (.or f) (fun _ a b => a ||| b) ∧
    pairs (.xor f) (fun _ a b => a ^^^ b) ∧
    pairs (.andn f) (fun _ a b => a &&& ~~~b) ∧
    pairs (.orn f) (fun _ a b => a ||| ~~~b) ∧
    pairs (.min f) (fun _ a b => if a.toInt ≤ b.toInt then a else b) ∧
    pairs (.max f) (fun _ a b => if a.toInt ≤ b.toInt then b else a) ∧
    pairs (.minu f) (fun _ a b => if a.toNat ≤ b.toNat then a else b) ∧
    pairs (.maxu f) (fun _ a b => if a.toNat ≤ b.toNat then b else a) ∧
    counts (.shl f) (fun n a c => BitVec.ofNat n (a.toNat * 2 ^ c)) ∧
    counts (.shr f) (fun n a c => BitVec.ofNat n (a.toNat / 2 ^ c)) ∧
    counts (.sar f) (fun n a c => BitVec.ofInt n (a.toInt / 2 ^ c)) ∧
    counts (.rol f) (fun n a c => a <<< c ||| a >>> (n - c)) ∧
    counts (.sext f) (fun n a c => (a.setWidth (c + 1)).signExtend n)) ∧
  ∀ f : AW,
    let one (i : Instr) (g : ∀ n, BitVec n → BitVec n) : Prop :=
      LaneWord i f.z .no [srcP f.a f.w, dstP f.d f.w] f.d f.n (if f.w then 2 else 1) .int (unary f g)
    one (.abs f) (fun n a => BitVec.ofInt n a.toInt.natAbs) ∧
    one (.neg f) (fun n a => BitVec.ofInt n (-a.toInt)) ∧
    one (.mov f) (fun _ a => a)

/-- R204, R50: an immediate form has the effect of its register form with W = 0 and b the extended immediate: the
sign-extended IMM of ADD, the zero-extended one of AND, OR and XOR, or the full 32-bit value of an ADV.IMM. R214, R217: MOVI
writes its extended immediate, LEA the low word of its own address plus it, to the latch of class addr. -/
def Obligations.ImmediateForms : Prop :=
  (∀ f : ImmOp,
    let imm (i : Instr) (signed : Bool) (g : Word → Word → Word) : Prop :=
      LaneWord i f.z .no [src1 f.a, dstP f.d false] f.d f.n 1 .int fun t l =>
        let a := t.read false l f.a
        let b := match t.advs.findSome? fun x => match x with | .imm hi => some hi | _ => none with
          | some hi => hi ++ f.imm
          | none => if signed then f.imm.signExtend 32 else f.imm.setWidth 32
        ⟨(g (a.val.setWidth 32) b).setWidth 64, a.taint⟩
    imm (.addImm f) true (· + ·) ∧ imm (.andImm f) false (· &&& ·) ∧ imm (.orImm f) false (· ||| ·) ∧
    imm (.xorImm f) false (· ^^^ ·)) ∧
  (∀ f : ShOp,
    let sh (i : Instr) (g : Word → Nat → Word) : Prop :=
      LaneWord i f.z .no [src1 f.a, dstP f.d false] f.d f.n 1 .int fun t l =>
        let a := t.read false l f.a
        ⟨(g (a.val.setWidth 32) f.c.toNat).setWidth 64, a.taint⟩
    sh (.shlImm f) (fun a c => BitVec.ofNat 32 (a.toNat * 2 ^ c)) ∧
    sh (.shrImm f) (fun a c => BitVec.ofNat 32 (a.toNat / 2 ^ c)) ∧
    sh (.sarImm f) (fun a c => BitVec.ofInt 32 (a.toInt / 2 ^ c)) ∧
    sh (.rolImm f) (fun a c => a <<< c ||| a >>> (32 - c))) ∧
  ∀ (d : Opd) (imm : BitVec 12) (n z : Bool),
    let b (t : Team) : Word := match t.advs.findSome? fun x => match x with | .imm hi => some hi | _ => none with
      | some hi => hi ++ imm
      | none => imm.signExtend 32
    LaneWord (.movi d imm n z) z .no [dstP d false] d n 1 .int (fun t _ => ⟨(b t).setWidth 64, false⟩) ∧
    LaneWord (.lea d imm n z) z .no [dstP d false] d n 1 .addr fun t _ =>
      ⟨((t.pc + (b t).signExtend 64).setWidth 32).setWidth 64, false⟩

/-- R206, R208: the multiplies, of class mul; MAD, MADW and MADWU add the destination as it stood. -/
def Obligations.Multiply : Prop :=
  (∀ f : ABW, LaneWord (.mul f) f.z .no [srcP f.a f.w, srcP f.b f.w, dstP f.d f.w] f.d f.n (if f.w then 2 else 1) .mul
    (binary f fun n a b => BitVec.ofNat n (a.toNat * b.toNat))) ∧
  ∀ f : AB,
    let high (i : Instr) (g : Word → Word → Int) : Prop :=
      LaneWord i f.z .no [src1 f.a, src1 f.b, dstP f.d false] f.d f.n 1 .mul
        (binary32 f.a f.b fun a b => (BitVec.ofInt 32 (g a b / 2 ^ 32)).setWidth 64)
    let wide (i : Instr) (g : Word → Word → Int) : Prop :=
      LaneWord i f.z .no [src1 f.a, src1 f.b, dstP f.d true] f.d f.n 2 .mul
        (binary32 f.a f.b fun a b => BitVec.ofInt 64 (g a b))
    let wideAdd (i : Instr) (g : Word → Word → Int) : Prop :=
      LaneWord i f.z .no [src1 f.a, src1 f.b, srcP f.d true, dstP f.d true] f.d f.n 2 .mul fun t l =>
        let x := t.read false l f.a
        let y := t.read false l f.b
        let d := t.read true l f.d
        ⟨BitVec.ofInt 64 (g (x.val.setWidth 32) (y.val.setWidth 32) + d.val.toInt), x.taint || y.taint || d.taint⟩
    let signed (a b : Word) : Int := a.toInt * b.toInt
    let unsigned (a b : Word) : Int := a.toNat * b.toNat
    high (.mulh f) signed ∧ high (.mulhu f) unsigned ∧
    wide (.mulw f) signed ∧ wide (.mulwu f) unsigned ∧
    wideAdd (.madw f) signed ∧ wideAdd (.madwu f) unsigned ∧
    LaneWord (.mad f) f.z .no [src1 f.a, src1 f.b, src1 f.d, dstP f.d false] f.d f.n 1 .mul fun t l =>
      let x := t.read false l f.a
      let y := t.read false l f.b
      let d := t.read false l f.d
      ⟨(BitVec.ofInt 32 (x.val.toNat * y.val.toNat + d.val.toNat)).setWidth 64, x.taint || y.taint || d.taint⟩

/-- R206, R207 and Table 12.4 with R184: a divide in which no active lane sets a STATUS bit that TRAPEN enables writes
every lane's result and goes on; each active lane has its DZ or OV bit on top of what STATUS held, a helper lane none.
R209: with an enabled bit set in some lane the divide completes in every lane, and the team then takes the trap DZ,
or OV where no lane set an enabled DZ, of the completed kind; the fault mask names the lanes that set the bit. -/
def Obligations.Divides : Prop :=
  (∀ f : ABW,
     let div (i : Instr) (signed rem : Bool) : Prop :=
       ∀ s c t tm, Ready s c t tm i f.z .no [srcP f.a f.w, srcP f.b f.w, dstP f.d f.w] →
         (∀ l ∈ tm.active, divStatus tm f signed rem l &&& tm.trapen = 0) →
         ∃ s' tm', exec i s = .next s' ∧ s'.team? c t = some tm' ∧ Advanced tm tm' f.z ∧
           Divided tm tm' f signed rem ∧ OnlyTeam s s' c t
     div (.div f) true false ∧ div (.divu f) false false ∧ div (.rem f) true true ∧ div (.remu f) false true) ∧
  (∀ f : ABW,
     let div (i : Instr) (signed rem : Bool) : Prop :=
       ∀ s c t tm, Ready s c t tm i f.z .no [srcP f.a f.w, srcP f.b f.w, dstP f.d f.w] →
         let dz := tm.active.filter fun l => (divStatus tm f signed rem l).getLsbD 0
         let ov := tm.active.filter fun l => (divStatus tm f signed rem l).getLsbD 1
         ∃ s1 td, s1.team? c t = some td ∧ OnlyTeam s s1 c t ∧ Divided tm td f signed rem ∧ td.pc = tm.pc ∧ td.wordPc = tm.wordPc ∧
           ((tm.trapen.getLsbD 0 = true ∧ dz ≠ []) →
             TrapsFrom s1 c t td { cause := .dz, kind := .completed, mask := some (maskOf dz) } (exec i s)) ∧
           (¬(tm.trapen.getLsbD 0 = true ∧ dz ≠ []) → tm.trapen.getLsbD 1 = true → ov ≠ [] →
             TrapsFrom s1 c t td { cause := .ov, kind := .completed, mask := some (maskOf ov) } (exec i s))
     div (.div f) true false ∧ div (.divu f) false false ∧ div (.rem f) true true ∧ div (.remu f) false true)

/-- R206, R207: the values of the divides at every width. By 0: all ones, or +1 for DIV of a negative number, and the
dividend as the remainder; the most negative number by -1: itself and 0; else the quotient cut toward zero and the
remainder that takes the sign of a. -/
def Obligations.DivideTable : Prop :=
  ∀ (n : Nat) (a b : BitVec (n + 2)),
    (b = 0 → (divide true false a b = (if a.toInt < 0 then 1 else -1, 1)) ∧ divide true true a b = (a, 1) ∧
      divide false false a b = (-1, 1) ∧ divide false true a b = (a, 1)) ∧
    (a = BitVec.intMin (n + 2) → b = -1 → divide true false a b = (a, 2) ∧ divide true true a b = (0, 2)) ∧
    (b ≠ 0 → ¬(a = BitVec.intMin (n + 2) ∧ b = -1) →
      ∃ q r : BitVec (n + 2), divide true false a b = (q, 0) ∧ divide true true a b = (r, 0) ∧
        a.toInt = b.toInt * q.toInt + r.toInt ∧ r.toInt.natAbs < b.toInt.natAbs ∧ (r.toInt = 0 ∨ (r.toInt < 0 ↔ a.toInt < 0))) ∧
    (b ≠ 0 → ∃ q r : BitVec (n + 2), divide false false a b = (q, 0) ∧ divide false true a b = (r, 0) ∧
      a.toNat = b.toNat * q.toNat + r.toNat ∧ r.toNat < b.toNat)

/-- R210, R211: leading zeros, ones and reversed bits; the fields of BFX, BFXU and BFI, whose position is b[5:0] and
whose length b[13:8] is cut at bit 31; a field of no bits reads as 0 and inserts nothing. -/
def Obligations.BitOperations : Prop :=
  (∀ f : AW,
    let count (i : Instr) (g : Nat → Nat → Nat) : Prop :=
      LaneWord i f.z .no [srcP f.a f.w, dstP f.d false] f.d f.n 1 .int fun t l =>
        let a := t.read f.w l f.a
        ⟨BitVec.ofNat 64 (if f.w then g 64 a.val.toNat else g 32 (a.val.setWidth 32).toNat), a.taint⟩
    count (.clz f) (fun n x => ((List.range n).takeWhile fun i => !x.testBit (n - 1 - i)).length) ∧
    count (.popc f) (fun n x => ((List.range n).filter x.testBit).length) ∧
    LaneWord (.brev f) f.z .no [srcP f.a f.w, dstP f.d f.w] f.d f.n (if f.w then 2 else 1) .int
      (unary f fun _ a => a.reverse)) ∧
  ∀ f : AB,
    let pos (b : Word) : Nat := b.toNat % 64
    let len (b : Word) : Nat := min (b.toNat / 256 % 64) (32 - pos b)
    LaneWord (.bfxu f) f.z .no [src1 f.a, src1 f.b, dstP f.d false] f.d f.n 1 .int
      (binary32 f.a f.b fun a b => BitVec.ofNat 64 (a.toNat / 2 ^ pos b % 2 ^ len b)) ∧
    LaneWord (.bfx f) f.z .no [src1 f.a, src1 f.b, dstP f.d false] f.d f.n 1 .int
      (binary32 f.a f.b fun a b =>
        (((BitVec.ofNat (len b) (a.toNat / 2 ^ pos b)).signExtend 32).setWidth 64)) ∧
    LaneWord (.bfi f) f.z .no [src1 f.a, src1 f.b, src1 f.d, dstP f.d false] f.d f.n 1 .int fun t l =>
      let a := t.read false l f.a
      let b := t.read false l f.b
      let d := t.read false l f.d
      let p := pos (b.val.setWidth 32)
      let n := len (b.val.setWidth 32)
      ⟨(BitVec.ofBoolListLE ((List.range 32).map fun i =>
          if p ≤ i ∧ i < p + n then a.val.getLsbD (i - p) else d.val.getLsbD i)).setWidth 64,
        a.taint || b.taint || d.taint⟩

/-- R205, R212, R213, R216: the compares and the flag words write one flag in every computing lane; SEL takes a where
its flag is set and else b. -/
def Obligations.ComparesSelectsFlags : Prop :=
  (∀ k c a b w z, FlagWord (.cmp k c a b w z) z .no [srcP a w, srcP b w] k fun t l =>
    let x := (t.read w l a).val
    let y := (t.read w l b).val
    if w then condition c x y else condition c (x.setWidth 32) (y.setWidth 32)) ∧
  (∀ (k c : BitVec 3) (a : Opd) (imm : BitVec 12) (z : Bool), FlagWord (.cmpImm k c a imm z) z .no [src1 a] k fun t l =>
    let b := match t.advs.findSome? fun x => match x with | .imm hi => some hi | _ => none with
      | some hi => hi ++ imm
      | none => imm.signExtend 32
    let cc : Cond := [.eq, .ne, .lt, .ge, .ltu, .geu, .gt, .le].getD c.toNat .eq
    condition cc ((t.read false l a).val.setWidth 32) b) ∧
  (∀ (f : ABW) k, LaneWord (.sel f k) f.z .no [srcP f.a f.w, srcP f.b f.w, dstP f.d f.w] f.d f.n (if f.w then 2 else 1) .int
    fun t l =>
      let x := t.read f.w l f.a
      let y := t.read f.w l f.b
      ⟨if t.flag l k then x.val else y.val, x.taint || y.taint⟩) ∧
  (∀ f : K3, FlagWord (.kand f) f.z .no [] f.d (fun t l => t.flag l f.a && t.flag l f.b) ∧
    FlagWord (.kor f) f.z .no [] f.d (fun t l => t.flag l f.a || t.flag l f.b)) ∧
  ∀ f : K2, FlagWord (.knot f) f.z .no [] f.d (fun t l => !t.flag l f.a) ∧
    FlagWord (.kmov f) f.z .no [] f.d (fun t l => t.flag l f.a)

/-! Floating point, conversions, dot products, exponents and special functions (R189, R218 to R234). -/

/-- R186, R187, R189, Tables 11.8 and 11.9: a pattern of each format decodes to the value of its sign, exponent and fraction, a
subnormal, a zero, an infinity or a NaN among them. The rounding that every floating-point word uses gives, in each format and mode,
the neighbour that the table names; an exact value is unchanged, and what lies beyond the largest finite value becomes what the
table's last column says; a NaN becomes the canonical one, infinities and zeros keep their signs.
R219: the sums and products that are rounded are exact, in every case: of finite values as integers over a common
unit, and with NaNs, infinities on either side and the sign of a zero sum as the rule says. That an overflow under rn is
judged on the value already rounded is the model's reading (entry 71). -/
def Obligations.ExactThenRounded : Prop :=
  ((∀ p ∈ [(Num.fp64, 0x7FF8000000000000), (Num.fp32, 0x7FC00000), (Num.fp16, 0x7E00), (Num.bf16, 0x7FC0), (Num.a24, 0x7FC000)],
     let f : Num.Fmt := p.1
     let b : Int := 2 ^ (f.ew - 1) - 1
     (∀ s e m : Nat, s < 2 → e < 2 ^ f.ew → m < 2 ^ f.fw →
       let v := f.decode ((s * 2 ^ f.ew + e) * 2 ^ f.fw + m)
       (e = 2 ^ f.ew - 1 → v = if m = 0 then .inf (s == 1) else .nan) ∧
       (e < 2 ^ f.ew - 1 → ∃ n u, v = .fin (s == 1) n u ∧
         dyadicCmp n u (if e = 0 then m else 2 ^ f.fw + m) ((if e = 0 then 1 else (e : Int)) - b - f.fw) = .eq)) ∧
     ∀ r neg, f.round r .nan = p.2 ∧ f.round r (.inf neg) = (if neg then f.sign else 0) + (2 ^ f.ew - 1) * 2 ^ f.fw ∧
       ∀ e, f.round r (.fin neg 0 e) = if neg then f.sign else 0) ∧
   ∀ f ∈ [Num.fp64, Num.fp32, Num.fp16, Num.bf16, Num.a24], ∀ (r : Rnd) (neg : Bool) (m : Nat) (e : Int), m ≠ 0 →
     ∃ code, Rounds f r neg (dyadicCmp m e) code ∧ f.round r (.fin neg m e) = (if neg then f.sign else 0) + code) ∧
  (∀ (r : Rnd) (a b : Num.Val),
     (a = .nan ∨ b = .nan → a.add r b = .nan ∧ a.mul b = .nan) ∧
     (∀ s, a.add r (.inf s) = (if a = .nan ∨ a = .inf (!s) then .nan else .inf s) ∧
       (Num.Val.inf s).add r b = if b = .nan ∨ b = .inf (!s) then .nan else .inf s) ∧
     (∀ n m e, (Num.Val.inf n).mul (.fin m 0 e) = .nan ∧ (Num.Val.fin m 0 e).mul (.inf n) = .nan) ∧
     (∀ n k m e, m ≠ 0 → (Num.Val.inf n).mul (.fin k m e) = .inf (n != k) ∧ (Num.Val.fin k m e).mul (.inf n) = .inf (k != n)) ∧
     (∀ n k, (Num.Val.inf n).mul (.inf k) = .inf (n != k)) ∧
     (∀ na ma ea nb mb eb, a = .fin na ma ea → b = .fin nb mb eb →
       (∃ n m e, a.add r b = .fin n m e ∧ ∀ u, u ≤ e → u ≤ ea → u ≤ eb →
         Num.scaled n m e u = Num.scaled na ma ea u + Num.scaled nb mb eb u) ∧
       a.mul b = .fin (na != nb) (ma * mb) (ea + eb) ∧
       (Num.scaled na ma ea (min ea eb) + Num.scaled nb mb eb (min ea eb) = 0 → ∃ e,
         a.add r b = .fin (if ma = 0 ∧ mb = 0 ∧ na = nb then na else r == .rd) 0 e)))

/-- R218 to R223: FADD, FSUB, FMUL and FFMA and their FP64 forms round the exact sum, difference, product or fused sum
once; FMIN and FMAX choose a pattern; FABS and FNEG touch the sign bit alone; FCMP orders values, unordered with a NaN. -/
def Obligations.FloatWords : Prop :=
  let family (m : Num.Fmt) (pair : Bool) (two : List ((AB → Instr) × (Rnd → Num.Val → Num.Val → Num.Val)))
      (fma mn mx : AB → Instr) (ab ng : A1 → Instr) (cmp : BitVec 3 → FCond → Opd → Opd → Bool → Instr) : Prop :=
    let n := if pair then 2 else 1
    (∀ p ∈ two, ∀ f : AB, LaneWord (p.1 f) f.z .no [srcP f.a pair, srcP f.b pair, dstP f.d pair] f.d f.n n .mul
      (floats2 m pair f p.2)) ∧
    (∀ f : AB, LaneWord (fma f) f.z .no [srcP f.a pair, srcP f.b pair, srcP f.d pair, dstP f.d pair] f.d f.n n .mul
      (floats3 m pair f fun r a b d => (a.mul b).add r d)) ∧
    (∀ p ∈ [(mn, true), (mx, false)], ∀ f : AB,
      LaneWord (p.1 f) f.z .no [srcP f.a pair, srcP f.b pair, dstP f.d pair] f.d f.n n .mul fun t l =>
        let a := t.read pair l f.a
        let b := t.read pair l f.b
        ⟨BitVec.ofNat 64 (chosen m p.2 a.val.toNat b.val.toNat), a.taint || b.taint⟩) ∧
    (∀ f : A1, LaneWord (ab f) f.z .no [srcP f.a pair, dstP f.d pair] f.d f.n n .mul fun t l =>
        ⟨(t.read pair l f.a).val &&& BitVec.ofNat 64 (m.sign - 1), (t.read pair l f.a).taint⟩) ∧
    (∀ f : A1, LaneWord (ng f) f.z .no [srcP f.a pair, dstP f.d pair] f.d f.n n .mul fun t l =>
        ⟨(t.read pair l f.a).val ^^^ BitVec.ofNat 64 m.sign, (t.read pair l f.a).taint⟩) ∧
    ∀ k c a b z, FlagWord (cmp k c a b z) z .no [srcP a pair, srcP b pair] k fun t l =>
      let x := m.decode (t.read pair l a).val.toNat
      let y := m.decode (t.read pair l b).val.toNat
      match c with
      | .un => x.isNan || y.isNan
      | .ne => x.isNan || y.isNan || x.cmp y != .eq
      | .eq => !x.isNan && !y.isNan && x.cmp y == .eq
      | .lt => !x.isNan && !y.isNan && x.cmp y == .lt
      | .le => !x.isNan && !y.isNan && x.cmp y != .gt
      | .gt => !x.isNan && !y.isNan && x.cmp y == .gt
      | .ge => !x.isNan && !y.isNan && x.cmp y != .lt
  family Num.fp32 false
    [(Instr.fadd, fun r a b => a.add r b), (Instr.fsub, fun r a b => a.add r b.neg), (Instr.fmul, fun _ a b => a.mul b)]
    .ffma .fmin .fmax .fabs .fneg .fcmp ∧
  family Num.fp64 true
    [(Instr.dadd, fun r a b => a.add r b), (Instr.dsub, fun r a b => a.add r b.neg), (Instr.dmul, fun _ a b => a.mul b)]
    .dfma .dmin .dmax .dabs .dneg .dcmp

/-- R224, R226, R227: the packed words compute each 16-bit element apart; CVT reads and writes the widths of Table 12.6
and rounds once; an integer target takes the rounded value clamped, and 0 for a NaN. R190, R191, R193: a SHELF8 byte has the
magnitude of Table 11.13, and conversion to SHELF8 chooses between neighbours as Table 11.14 says. -/
def Obligations.PackedAndConversions : Prop :=
  (∀ p ∈ ([(Instr.hadd2, Num.fp16, false), (.badd2, Num.bf16, false), (.hmul2, Num.fp16, true), (.bmul2, Num.bf16, true)] :
      List ((AB → Instr) × Num.Fmt × Bool)), ∀ f : AB,
    LaneWord (p.1 f) f.z .no [src1 f.a, src1 f.b, dstP f.d false] f.d f.n 1 .mul fun t l =>
      let a := t.read false l f.a
      let b := t.read false l f.b
      let x (i : Nat) := p.2.1.decode (elementOf a.val i)
      let y (i : Nat) := p.2.1.decode (elementOf b.val i)
      ⟨bothElements fun i => p.2.1.round (mode t) (if p.2.2 then (x i).mul (y i) else (x i).add (mode t) (y i)), a.taint || b.taint⟩) ∧
  (∀ p ∈ ([(Instr.hfma2, Num.fp16), (.bfma2, Num.bf16)] : List ((AB → Instr) × Num.Fmt)), ∀ f : AB,
    LaneWord (p.1 f) f.z .no [src1 f.a, src1 f.b, src1 f.d, dstP f.d false] f.d f.n 1 .mul fun t l =>
      let a := t.read false l f.a
      let b := t.read false l f.b
      let d := t.read false l f.d
      let v (x : Latch) (i : Nat) := p.2.decode (elementOf x.val i)
      ⟨bothElements fun i => p.2.round (mode t) (((v a i).mul (v b i)).add (mode t) (v d i)), a.taint || b.taint || d.taint⟩) ∧
  (∀ (f : A1) (r : Rnd),
    let cvt (form : CvtForm) (src dst : Bool) (g : DWord → DWord) : Prop :=
      LaneWord (.cvt f form r) f.z .no [srcP f.a src, dstP f.d dst] f.d f.n (if dst then 2 else 1) .cvt
        fun t l => ⟨g (t.read src l f.a).val, (t.read src l f.a).taint⟩
    let out (m : Num.Fmt) (r : Rnd) (v : Num.Val) : DWord := BitVec.ofNat 64 (m.round r v)
    let int32 (lo hi : Int) (v : Num.Val) : DWord := (BitVec.ofInt 32 (Num.toInt r lo hi v)).setWidth 64
    let whole (i : Int) : Num.Val := .fin (decide (i < 0)) i.natAbs 0
    let f32 (x : DWord) : Num.Val := Num.fp32.decode x.toNat
    let f64 (x : DWord) : Num.Val := Num.fp64.decode x.toNat
    cvt .f16f32 false false (fun x => out Num.fp16 r (f32 x)) ∧
    cvt .bf16f32 false false (fun x => out Num.bf16 r (f32 x)) ∧
    cvt .shelf8f32 false false (fun x => BitVec.ofNat 64 (Num.toShelf8 r (f32 x))) ∧
    cvt .s32f32 false false (fun x => int32 (-2 ^ 31) (2 ^ 31 - 1) (f32 x)) ∧
    cvt .u32f32 false false (fun x => int32 0 (2 ^ 32 - 1) (f32 x)) ∧
    cvt .f32f64 true false (fun x => out Num.fp32 r (f64 x)) ∧
    cvt .s32f64 true false (fun x => int32 (-2 ^ 31) (2 ^ 31 - 1) (f64 x)) ∧
    cvt .s64f64 true true (fun x => BitVec.ofInt 64 (Num.toInt r (-2 ^ 63) (2 ^ 63 - 1) (f64 x))) ∧
    cvt .f32s32 false false (fun x => out Num.fp32 r (whole (x.setWidth 32).toInt)) ∧
    cvt .f32u32 false false (fun x => out Num.fp32 r (whole (x.setWidth 32).toNat)) ∧
    cvt .f64s64 true true (fun x => out Num.fp64 r (whole x.toInt)) ∧
    cvt .f32f16 false false (fun x => out Num.fp32 .rn (Num.fp16.decode (x.toNat % 2 ^ 16))) ∧
    cvt .f32bf16 false false (fun x => out Num.fp32 .rn (Num.bf16.decode (x.toNat % 2 ^ 16))) ∧
    cvt .f32shelf8 false false (fun x => out Num.fp32 .rn (Num.shelf8 (x.toNat % 2 ^ 8))) ∧
    cvt .f64f32 false true (fun x => out Num.fp64 .rn (f32 x)) ∧
    cvt .f64s32 false true (fun x => out Num.fp64 .rn (whole (x.setWidth 32).toInt))) ∧
  (Num.shelf8 0 = .fin false 0 0 ∧ Num.shelf8 128 = .nan ∧ ∀ p, 0 < p → p < 128 → ∃ m e,
    Num.shelf8 p = .fin false m e ∧ Num.shelf8 (128 + p) = .fin true m e ∧ dyadicCmp m e (shelfTable.getD p 0) (-21) = .eq) ∧
  (∀ (r : Rnd) (n : Bool), Num.toShelf8 r .nan = 0x80 ∧ Num.toShelf8 r (.inf n) = (if n then 0x81 else 1) ∧
    ∀ m e, (m = 0 → Num.toShelf8 r (.fin n m e) = 0) ∧
      (m ≠ 0 → dyadicCmp m e 1 21 = .gt → Num.toShelf8 r (.fin n m e) = if n then 0x81 else 1) ∧
      (m ≠ 0 → dyadicCmp m e 1 21 ≠ .gt → ∃ p, p < 128 ∧
        Num.toShelf8 r (.fin n m e) = (if p = 0 then 0 else (if n then 128 else 0) + p) ∧
        (dyadicCmp m e (shelfTable.getD p 0) (-21) = .eq ∨ ∃ a b, a < 128 ∧ b < 128 ∧
          dyadicCmp m e (shelfTable.getD a 0) (-21) = .gt ∧ dyadicCmp m e (shelfTable.getD b 0) (-21) = .lt ∧
          (∀ q, q < 128 → shelfTable.getD q 0 ≤ shelfTable.getD a 0 ∨ shelfTable.getD b 0 ≤ shelfTable.getD q 0) ∧
          p = match r with
            | .rz => a
            | .ru => if n then a else b
            | .rd => if n then b else a
            | .ro => if a % 2 = 0 ∧ b % 2 = 1 then b else a
            | .rn => match dyadicCmp (2 * m) e (shelfTable.getD a 0 + shelfTable.getD b 0) (-21) with
              | .lt => a
              | .gt => b
              | .eq => if a % 2 = 1 ∧ b % 2 = 0 then b else a))) ∧
  ∀ (r : Rnd) (lo hi : Int), lo ≤ 0 → 0 ≤ hi →
    Num.toInt r lo hi .nan = 0 ∧ Num.toInt r lo hi (.inf true) = lo ∧ Num.toInt r lo hi (.inf false) = hi ∧
    ∀ (n : Bool) (m : Nat) (e : Int), ∃ q : Nat,
      (dyadicCmp m e q 0 ≠ .lt ∧ dyadicCmp m e (q + 1) 0 = .lt) ∧
      let exact := dyadicCmp m e q 0 = .eq
      let x : Nat := match r with
        | .rz => q
        | .ru => if n = true ∨ exact then q else q + 1
        | .rd => if n = true ∧ ¬exact then q + 1 else q
        | .ro => if exact ∨ q % 2 = 1 then q else q + 1
        | .rn => match dyadicCmp m e (2 * q + 1) (-1) with
          | .lt => q
          | .gt => q + 1
          | .eq => if q % 2 = 0 then q else q + 1
      Num.toInt r lo hi (.fin n m e) = max lo (min hi (if n then -(x : Int) else x))

/-- R228 to R231, R196: DOT4.SH rounds once the accumulator plus the exact scaled sum of four products, its scale byte
from lane 8j of the scale register above B, which alone is read of that register; DOT4.I8 adds four signed products modulo 2^32; MAXE and SCALEE work on the
exponent. The sign of an exact zero sum of DOT4.SH, that of the accumulator where all four products are zeros of its sign
and else negative under rd alone, is the model's reading of the rule (entry 37). -/
def Obligations.DotAndExponentWords : Prop :=
  (∀ (f : AB) (sel : BitVec 2) (above : Opd),
    (match f.b with
      | .v n => ∃ m, above = .v m ∧ m.val = n.val + 1
      | .s n => ∃ m, above = .s m ∧ m.val = n.val + 1
      | _ => False) →
    let first (l : Nat) : Nat := 32 * (l / 32) + 8 * (l % 32 / 8)
    LaneWordFrom (.dot4Sh f sel) f.z .no [src1 f.a, src1 f.b, boundN f.b 2, src1 f.d, dstP f.d false] above (fun _ l => first l)
      f.d f.n 1 .mul fun t l =>
        let a := t.read false l f.a
        let b := t.read false l f.b
        let d := t.read false l f.d
        let scale := t.read false (first l) above
        let e := scale.val.toNat / 2 ^ (8 * sel.toNat) % 256
        let el (x : Latch) (i : Nat) := Num.shelf8 (x.val.toNat / 2 ^ (8 * i) % 256)
        let p (i : Nat) := (el a i).mul (el b i)
        let r := mode t
        let acc := Num.fp32.decode d.val.toNat
        let sum := (((p 0).add r (p 1)).add r (p 2)).add r (p 3)
        let term := sum.mul (.fin false 1 ((e : Int) - 127))
        let alike := [p 0, p 1, p 2, p 3].all fun v => v.isZero && v.isNeg == acc.isNeg
        ⟨BitVec.ofNat 64 (
          if e = 255 ∨ sum = .nan ∨ acc = .nan then 0x7FC00000
          else if term.isZero ∧ acc.isZero then Num.fp32.round r (.fin (if alike then acc.isNeg else r == .rd) 0 0)
          else Num.fp32.round r (term.add r acc)), a.taint || b.taint || d.taint || scale.taint⟩) ∧
  (∀ f : AB, LaneWord (.dot4I8 f) f.z .no [src1 f.a, src1 f.b, src1 f.d, dstP f.d false] f.d f.n 1 .mul fun t l =>
    let a := t.read false l f.a
    let b := t.read false l f.b
    let d := t.read false l f.d
    let el (x : Latch) (i : Nat) : Int := (x.val.extractLsb' (8 * i) 8).toInt
    ⟨(BitVec.ofInt 32 (d.val.toNat + (el a 0 * el b 0 + el a 1 * el b 1 + el a 2 * el b 2 + el a 3 * el b 3))).setWidth 64,
      a.taint || b.taint || d.taint⟩) ∧
  (∀ f : AB, LaneWord (.maxe f) f.z .no [src1 f.a, src1 f.b, dstP f.d false] f.d f.n 1 .mul
    (binary32 f.a f.b fun a b =>
      let e : Int := match Num.fp32.decode a.toNat with
        | .fin _ m e => if m = 0 then -2 ^ 31 else (Nat.log2 m : Int) + e
        | _ => 2 ^ 31 - 1
      (BitVec.ofInt 32 (max e b.toInt)).setWidth 64)) ∧
  ∀ f : AB, LaneWord (.scalee f) f.z .no [src1 f.a, src1 f.b, dstP f.d false] f.d f.n 1 .mul fun t l =>
    let a := t.read false l f.a
    let b := t.read false l f.b
    ⟨BitVec.ofNat 64 (match Num.fp32.decode a.val.toNat with
      | .nan => 0x7FC00000
      | .inf _ => a.val.toNat
      | .fin n m e => if m = 0 then a.val.toNat else Num.fp32.round (mode t) (.fin n m (e + (b.val.setWidth 32).toInt))),
      a.taint || b.taint⟩

/-- R232: each word of major 0x16 writes its function of a, to the latch e3.
R232, R234 and Tables 13.1 and 13.2: RCP and SQRT are rounded correctly; the exact and special results of every
function. -/
def Obligations.SpecialFunctions : Prop :=
  (∀ p ∈ ([(Instr.rcp, Num.rcp), (.rsq, Num.rsq), (.sqrt, Num.sqrt), (.ex2, Num.ex2), (.lg2, Num.lg2),
       (.sinpi, Num.sinCosPi false), (.cospi, Num.sinCosPi true), (.tanh, Num.tanh)] : List ((A1 → Instr) × (Word → Word))),
     ∀ f : A1, LaneWord (p.1 f) f.z .no [src1 f.a, dstP f.d false] f.d f.n 1 .sfu fun t l =>
       ⟨(p.2 ((t.read false l f.a).val.setWidth 32)).setWidth 64, (t.read false l f.a).taint⟩) ∧
  (∀ a : Word,
     let mag := a.toNat % 2 ^ 31
     let neg := decide (2 ^ 31 ≤ a.toNat)
     let nan : Word := 0x7FC00000
     (2139095040 < mag → Num.rcp a = nan ∧ Num.rsq a = nan ∧ Num.sqrt a = nan ∧ Num.ex2 a = nan ∧ Num.lg2 a = nan ∧
       Num.sinCosPi false a = nan ∧ Num.sinCosPi true a = nan ∧ Num.tanh a = nan) ∧
     (∀ s m e, Num.fp32.decode a.toNat = .fin s m e → m ≠ 0 →
       (∃ x, Rounds Num.fp32 .rn s (recipCmp m e) x ∧ Num.rcp a = BitVec.ofNat 32 ((if s then 2 ^ 31 else 0) + x)) ∧
       (s = false → ∃ x, Rounds Num.fp32 .rn false (rootCmp m e) x ∧ Num.sqrt a = BitVec.ofNat 32 x)) ∧
     (mag = 0 → Num.rcp a = (a ||| 0x7F800000) ∧ Num.rsq a = (a ||| 0x7F800000) ∧ Num.sqrt a = a ∧
       Num.ex2 a = 0x3F800000 ∧ Num.lg2 a = 0xFF800000) ∧
     (mag = 2139095040 → Num.rcp a = (a &&& 0x80000000) ∧ Num.sinCosPi false a = nan ∧ Num.sinCosPi true a = nan) ∧
     (a = 0x7F800000 → Num.rsq a = 0 ∧ Num.sqrt a = a ∧ Num.lg2 a = a) ∧
     (neg = true → 0 < mag → Num.rsq a = nan ∧ Num.sqrt a = nan ∧ Num.lg2 a = nan) ∧
     (neg = false → 0x43000000 ≤ mag → mag ≤ 2139095040 → Num.ex2 a = 0x7F800000) ∧
     (neg = true → 0x43160000 ≤ mag → mag ≤ 2139095040 → Num.ex2 a = 0) ∧
     (∀ n : Int, -149 ≤ n → n ≤ 127 → (holdsValue a n 0 → holdsValue (Num.ex2 a) 1 n) ∧
       (holdsValue a 1 n → holdsValue (Num.lg2 a) n 0)) ∧
     (∀ n : Int, holdsValue a n 0 → Num.sinCosPi false a = (a &&& 0x80000000) ∧
       Num.sinCosPi true a = if n % 2 = 0 then 0x3F800000 else 0xBF800000) ∧
     (∀ n : Int, holdsValue a (2 * n + 1) (-1) →
       Num.sinCosPi false a = (if n % 2 = 0 then 0x3F800000 else 0xBF800000) ∧ Num.sinCosPi true a = 0) ∧
     (mag < 0x39800000 → Num.tanh a = a) ∧
     (0x41100000 ≤ mag → mag ≤ 2139095040 → Num.tanh a = if neg then 0xBF800000 else 0x3F800000))

/-! Cross-lane words (R236 to R248): all of them are team-wide. -/

/-- R238, R240: LPICK and QSWP write in every receiving lane the value of the lane they name where that lane is active or a
helper lane, read before any lane writes, and otherwise the receiver's own. R241: the polls over the active
lanes of each warp; a helper lane's flag never counts. -/
def Obligations.PicksSwapsPolls : Prop :=
  (∀ p ∈ ([(Instr.lpickAt, fun _ b => some (b % 32)),
      (.lpickBack, fun q b => if b ≤ q then some (q - b) else none),
      (.lpickFwd, fun q b => if q + b ≤ 31 then some (q + b) else none),
      (.lpickMir, fun q b => some (q ^^^ (b % 32)))] : List ((AB → Instr) × (Nat → Nat → Option Nat))), ∀ f : AB,
    let lane (t : Team) (l : Nat) := pickedLane t l (p.2 (l % 32) (t.read false l f.b).val.toNat)
    LaneWordFrom (p.1 f) f.z .yes [src1 f.a, src1 f.b, dstP f.d false] f.a lane f.d f.n 1 .xl fun t l =>
      let b := t.read false l f.b
      let x := t.read false (lane t l) f.a
      ⟨x.val, x.taint || b.taint⟩) ∧
  (∀ p ∈ ([(Instr.qswpH, 1), (.qswpV, 2), (.qswpD, 3)] : List ((A1 → Instr) × Nat)), ∀ f : A1,
    let lane (t : Team) (l : Nat) := pickedLane t l (some (l % 32 ^^^ p.2))
    LaneWordFrom (p.1 f) f.z .yes [src1 f.a, dstP f.d false] f.a lane f.d f.n 1 .xl fun t l => t.read false (lane t l) f.a) ∧
  (∀ f : K2,
    FlagWord (.pollAny f) f.z .yes [] f.d (fun t l => (warpMates t l).any fun m => t.flag m f.a) ∧
    FlagWord (.pollAll f) f.z .yes [] f.d (fun t l => (warpMates t l).all fun m => t.flag m f.a)) ∧
  ∀ f : DK,
    LaneWord (.pollMask f) f.z .yes [dstP f.d false] f.d f.n 1 .xl (fun t l =>
      ⟨(BitVec.ofBoolListLE ((List.range 32).map fun q =>
        decide (32 * (l / 32) + q ∈ warpMates t l) && t.flag (32 * (l / 32) + q) f.a)).setWidth 64, false⟩) ∧
    LaneWord (.pollCnt f) f.z .yes [dstP f.d false] f.d f.n 1 .xl fun t l =>
      ⟨BitVec.ofNat 64 ((warpMates t l).countP fun m => t.flag m f.a), false⟩

/-- R242 to R246: RED, SEGRED, SCAN and WRED write the fixed tree over the active lanes of the warp, of the lane's segment,
up to the lane, and of the team.
R242: over integers the fixed tree does not depend on its shape: ADD is the sum modulo 2^32 of the lanes reduced, and
the four selections are the least or greatest of their values. -/
def Obligations.Reductions : Prop :=
  (∀ f : RedF,
     let us := [src1 f.a, dstP f.d false]
     LaneWord (.red f) f.z .yes us f.d f.n 1 .xl (reduced f 5 redSet) ∧
     (∀ h, LaneWord (.segred f h) f.z .yes us f.d f.n 1 .xl (reduced f 5 (segSet h))) ∧
     LaneWord (.scan f) f.z .yes us f.d f.n 1 .xl (reduced f 5 scanSet) ∧
     ∀ s c t tm, tm.size ≤ 1024 → Ready s c t tm (.wred f) f.z .yes us →
       ∃ s' tm', exec (.wred f) s = .next s' ∧ s'.team? c t = some tm' ∧ Advanced tm tm' f.z ∧
         Written tm tm' f.d f.n 1 (reduced f 10 wredSet tm) ∧ Latched tm tm' .xl (reduced f 10 wredSet tm) ∧
         SameFlags tm tm' ∧ tm'.rest = tm.rest ∧ OnlyTeam s s' c t) ∧
  (∀ (t : Team) (a : Opd) (m base : Nat) (set : List Nat), set.Nodup → set ≠ [] →
     (∀ l ∈ set, base ≤ l ∧ l < base + 2 ^ m) →
     let val (l : Nat) : Word := (t.read false l a).val.setWidth 32
     fixedTree t .add a m base set = some (set.foldl (fun x l => x + val l) 0) ∧
     ∀ p ∈ ([(RedOp.min, fun x y => decide (x.toInt ≤ y.toInt)), (.max, fun x y => decide (y.toInt ≤ x.toInt)),
         (.minu, fun x y => decide (x.toNat ≤ y.toNat)), (.maxu, fun x y => decide (y.toNat ≤ x.toNat))] :
         List (RedOp × (Word → Word → Bool))),
       ∃ l ∈ set, fixedTree t p.1 a m base set = some (val l) ∧ ∀ k ∈ set, p.2 (val l) (val k) = true)

/-! Issue, traps and the system instructions (R42 to R60, R183, R390 to R403). -/

/-- R60: the checks before a word's own effect, in their order: Illegal Instruction, Register Bound, Stale Latch; the last
names the active lanes of the first warp whose pass reads a lost latch (R46). R63: a word whose source awaits the result of an
atomic or a window LDP parks. R426: then the precise trap of a window LDP, at its PC, whose destination the word would read, and that of
a register that fails its parity; that the LDP's is met here, and the order of the two, is the model's choice (entry 62). A word that passes them all has its effect. R391, R401: TRAP
enters the handler with cause 18, its code as ARG, the path's mask as the fault lane mask, and the word after it as the point at
which TRET resumes. -/
def Obligations.IssueChecks : Prop :=
  (∀ (s : State) (c t : Nat) (tm : Team) (i : Instr) (z : Bool) (w : Wide) (us : List Use)
    (f : Nat → Nat → Team → State → State), s.cur = ⟨c, t⟩ → s.team? c t = some tm → tm.status = .live →
    let legal := i.legal = true ∧ (tm.words < 23 ∨ z = true)
    (¬legal → TrapsFrom s c t tm { cause := .illegalInstruction, kind := .precise } (s.issue i z w us f)) ∧
    (legal → tm.gatherFor w = none → (∃ u ∈ us, tm.bound u = false) →
      TrapsFrom s c t tm { cause := .registerBound, kind := .precise } (s.issue i z w us f)) ∧
    (legal → tm.gatherFor w = none → (∀ u ∈ us, tm.bound u = true) → ∀ x, tm.stale us = some x →
      TrapsFrom s c t tm { cause := .staleLatch, kind := .precise, mask := some (maskOf (tm.active.filter fun l => l / 32 == x)) }
        (s.issue i z w us f)) ∧
    (legal → tm.gatherFor w = none → (∀ u ∈ us, tm.bound u = true) → tm.stale us = none →
      (tm.lockers us ≠ [] → NothingDue s c tm → ∃ s' tm', s.issue i z w us f = .next s' ∧ s'.team? c t = some tm' ∧
        Parked tm tm' ⟨.lock, 0, 0⟩ ∧ OnlyTeam s s' c t) ∧
      (tm.lockers us = [] → ∀ x, tm.lateRead us = some x →
        let tl : Team := { tm with late := tm.late.erase x }
        TrapsFrom (s.setTeam c t tl) c t tl
          { cause := .poisonedData, kind := .late, mask := some (maskOf (x.bad.map (·.1))), addr := (x.bad.map (·.2)).headD 0
            pc := some x.pc, redo := [{ x with bad := [] }] } (s.issue i z w us f)) ∧
      (tm.lockers us = [] → tm.lateRead us = none → tm.upset us ≠ [] →
        TrapsFrom s c t tm { cause := .poisonedData, kind := .precise, mask := some (maskOf (tm.upset us)) } (s.issue i z w us f))) ∧
    (Ready s c t tm i z w us → s.issue i z w us f = .next (f c t tm s))) ∧
  ∀ s c t tm code z, Ready s c t tm (.trap code z) z .no [] →
    TrapsFrom (s.announced c t) c t tm
      { cause := .trap, kind := .completed, arg := code.toNat, mask := some tm.act } (exec (.trap code z) s) ∧
    causeWord .trap false false code.toNat = BitVec.ofNat 32 (18 + 65536 * code.toNat)

/-- R330, R394: a trap taken at P1, or with no handler installed, kills the team, once its store queue is performed, or where it
handled a sequencer trap its block's; so does every check of R60 that fails: Illegal Instruction, Register Bound, Stale Latch. R400, R401: KILL ends the team; at P0, TRET, SKIP and KILL raise Illegal Instruction. -/
def Obligations.TrapsThatKill : Prop :=
  (∀ (s : State) (c t : Nat) (tm : Team), s.cur = ⟨c, t⟩ → s.team? c t = some tm → tm.status = .live →
    tm.p1 = true ∨ s.tvec c = 0 → s.trapDrain c t tm ≠ none →
    (∀ k : Trap, ∃ s' tm', s.raise? c t k = some s' ∧ s'.team? c t = some tm' ∧ tm'.status = .killed ∧ tm'.act = 0 ∧
      tm'.sq = []) ∧
    ∀ i z w us f,
      ¬(i.legal = true ∧ (tm.words < 23 ∨ z = true)) ∨
        (tm.gatherFor w = none ∧ ((∃ u ∈ us, tm.bound u = false) ∨ tm.stale us ≠ none)) →
      ∃ s' tm', s.issue i z w us f = .next s' ∧ s'.team? c t = some tm' ∧ tm'.status = .killed) ∧
  (∀ s c t tm fr z, Ready s c t tm (.kill z) z .no [] → tm.p1 = true → tm.frame = some fr → s.trapDrain c t tm ≠ none →
    ∃ s' tm', exec (.kill z) s = .next s' ∧ s'.team? c t = some tm' ∧ tm'.status = .killed ∧ tm'.act = 0 ∧
      tm'.faults = [] ∧ tm'.out = [] ∧ tm'.sq = []) ∧
  ∀ s c t tm z, tm.p1 = false → ∀ i ∈ [Instr.tret z, .skip z, .kill z], Ready s c t tm i z .no [] →
    TrapsFrom s c t tm { cause := .illegalInstruction, kind := .precise } (exec i s)

/-- R392, R399, R401: TRET gives the team back its privilege, windows, resume mask and the stack below the handler, at the
point that Table 20.4 names, and issues again a window LDP whose trap was handled (R426, entry 62); SKIP marks the trap as passed
over, so that TRET resumes past the word. That ADDRHI stays as the
handler left it is the model's choice (entry 69; R141 reads otherwise). -/
def Obligations.ReturnFromHandler : Prop :=
  (∀ s c t tm fr z, Ready s c t tm (.tret z) z .no [] → tm.p1 = true → tm.frame = some fr → fr.seq = false →
    fr.wait.cause = .none → tm.faults = [] → tm.overflow = [] → s.replayingAny c t = false →
    ∃ s' tm' stack, exec (.tret z) s = .next s' ∧ s'.team? c t = some tm' ∧ freshMarks stack = freshMarks (dropHandler tm.stack) ∧
      Runs tm tm' (if fr.skipped then fr.skipTo else fr.resume) fr.mask stack ∧
      tm'.p1 = false ∧ tm'.frame = none ∧ tm'.ix = tm.tix ∧ tm'.six = tm.tsix ∧
      (∀ l, tm'.status2 l = tm.status2 l) ∧ tm'.trapen = tm.trapen ∧ tm'.ac = tm.ac ∧ tm'.addrhi = tm.addrhi ∧
      (fr.skipped = true ∨ fr.redo = [] → tm'.wld = tm.wld) ∧
      (∀ x, fr.skipped = false → fr.redo = [x] → ∃ n, tm'.wld = tm.wld ++ [{ x with id := n, again := true }]) ∧
      ∀ a, s'.homeByte a = s.homeByte a) ∧
  ∀ s c t tm fr z, Ready s c t tm (.skip z) z .no [] → tm.p1 = true → tm.frame = some fr →
    ∃ s' tm' fr', exec (.skip z) s = .next s' ∧ s'.team? c t = some tm' ∧ Advanced tm tm' true ∧
      tm'.frame = some fr' ∧ fr'.skipped = true ∧ fr'.skipTo = fr.skipTo ∧ fr'.mask = fr.mask ∧
      SameRegs tm tm' ∧ SameFlags tm tm' ∧ tm'.p1 = true ∧
      (fr.skipped = false → fr.kind = .deferred ∨ fr.kind = .boundary → tm'.faults = [] ∧ tm'.overflow = [] ∧ tm'.xcount = 0) ∧
      ∀ a, s'.homeByte a = s.homeByte a

/-- R183, R402: SYSR gives every computing lane the register that Table 20.9 numbers and writes no latch; a number the
mode may not read, XINVLO and XINVHI among them, raises Permission.
R398: each SYSR of XREC first moves SEL on to the next of COUNT fault entries and then gives the word of Table 20.5;
FADDR, FLANE, XFAULT and TRAPCAUSE then describe entry SEL, where entry 0 is the one shown at entry. XREC_READ is that step alone. Which entry stands at each SEL, counted round from the
one shown at entry, is the model's reading (entry 16). -/
def Obligations.SystemRegisterReads : Prop :=
  (∀ s c t tm d (code : BitVec 10) z, Ready s c t tm (.sysr d code z) z .no [dstN d 1] →
     ((code.toNat < 32 ∨ tm.p1 = true) → code.toNat ≠ 39 → code.toNat ≠ 40 → code.toNat ≠ 41 →
       ∃ s' tm', exec (.sysr d code z) s = .next s' ∧ s'.team? c t = some tm' ∧ Advanced tm tm' z ∧
         (∀ v : Nat → Word, (∀ l, (code.toNat, v l) ∈ systemRegisters s c t tm l) →
           Written tm tm' d false 1 fun l => ⟨(v l).setWidth 64, false⟩) ∧
         SameLatches tm tm' ∧ SameFlags tm tm' ∧ tm'.rest = tm.rest ∧ OnlyTeam s s' c t) ∧
     ((32 ≤ code.toNat ∧ tm.p1 = false) ∨ code.toNat = 40 ∨ code.toNat = 41 →
       TrapsFrom s c t tm { cause := .permission, kind := .precise } (exec (.sysr d code z) s))) ∧
  ((∀ s c t tm d z, Ready s c t tm (.sysr d 39 z) z .no [dstN d 1] → tm.p1 = true → tm.xcount ≤ 8 →
     ∃ s' tm', exec (.sysr d 39 z) s = .next s' ∧ s'.team? c t = some tm' ∧ Advanced tm tm' z ∧
       tm'.xcount = tm.xcount ∧ tm'.xsel = (if tm.xcount = 0 then tm.xsel else (tm.xsel + 1) % tm.xcount) ∧
       Written tm tm' d false 1 (fun _ => ⟨BitVec.ofNat 64 (tm'.xsel % 16 * 16 + tm.xcount), false⟩) ∧
       (tm.xcount ≠ 0 → ∀ e, tm.faults[(tm.xfirst + tm'.xsel) % tm.xcount]? = some e → tm'.faddr = BitVec.ofNat 64 e.first.va ∧
         (∀ m, e.shown = some m → tm'.flane = m) ∧
         tm'.xfault = e.first.xfault ∧ tm'.trapcause.toNat % 256 = e.first.cause.code ∧
         tm'.trapcause.toNat / 256 = tm.trapcause.toNat / 256) ∧ OnlyTeam s s' c t) ∧
   ∀ s tm, s.team? s.cur.core s.cur.team = some tm →
     ∃ s' tm', exec .xrecRead s = .next s' ∧ s'.team? s.cur.core s.cur.team = some tm' ∧ OnlyTeam s s' s.cur.core s.cur.team ∧
       tm'.xsel = (if tm.p1 = true ∧ tm.xcount ≠ 0 then (tm.xsel + 1) % tm.xcount else tm.xsel) ∧
       SameRegs tm tm' ∧ SameFlags tm tm' ∧ tm'.pc = tm.pc)

/-- R183, R184, R402: SYSW writes ADDRHI, TRAPEN, CESTAT, XINVLO, TIX and TSIX from the lowest active lane, STATUS in every
active lane, and either half of the context's TVEC; any other register, or a P1 register written at P0, raises Permission. -/
def Obligations.SystemRegisterWrites : Prop :=
  ∀ s c t tm a (code : BitVec 10) z, Ready s c t tm (.sysw a code z) z .no [if code.toNat = 10 then src1 a else srcOnce a] →
    let x : Word := (tm.read false tm.first a).val.setWidth 32
    let free := 9 ≤ code.toNat ∧ code.toNat ≤ 12
    let atP1 := code.toNat = 40 ∨ 45 ≤ code.toNat ∧ code.toNat ≤ 48
    (free ∨ (tm.p1 = true ∧ atP1) →
      ∃ s' tm', exec (.sysw a code z) s = .next s' ∧ s'.team? c t = some tm' ∧ Advanced tm tm' z ∧
        SameRegs tm tm' ∧ SameFlags tm tm' ∧ SameLatches tm tm' ∧
        tm'.addrhi = (if code = 9 then x else tm.addrhi) ∧
        (∀ l, tm'.status2 l =
          if code = 10 ∧ l ∈ tm.active then (tm.read false l a).val.setWidth 2 else tm.status2 l) ∧
        tm'.trapen = (if code = 11 then x.setWidth 2 else tm.trapen) ∧
        tm'.cestat = (if code = 12 then x.setWidth 2 else tm.cestat) ∧
        tm'.xinvlo = (if code = 40 then x else tm.xinvlo) ∧
        tm'.tix = (if code = 47 then x.setWidth 9 else tm.tix) ∧
        tm'.tsix = (if code = 48 then x.setWidth 6 else tm.tsix) ∧
        ((PMap.get? s.ctxs (s.ctxOf c)).isSome → (s'.tvec c).toNat =
          if code = 45 then (s.tvec c).toNat / 2 ^ 32 * 2 ^ 32 + x.toNat
          else if code = 46 then x.toNat * 2 ^ 32 + (s.tvec c).toNat % 2 ^ 32
          else (s.tvec c).toNat) ∧
        ∀ b, s'.homeByte b = s.homeByte b) ∧
    (¬free → (tm.p1 = false ∨ (¬atP1 ∧ code.toNat ≠ 41)) →
      TrapsFrom s c t tm { cause := .permission, kind := .precise } (exec (.sysw a code z) s))

/-- R119, R120, R403: a SYSW to XINVHI of a legal word parks the team and begins the invalidation; XINV_LEAF and XINV_CONTEXT
remove, once the team's stores are home, every matching entry of every TLB, the context's walker pointers and the results of
its walks;
until then they change nothing. XINV_COMPLETE changes nothing while an access through a removed entry is under way, and then
lets the parked team go on; the word then goes on. Which accesses the wait covers is the model's reading (entry 40). -/
def Obligations.Invalidation : Prop :=
  (∀ s c t tm a z, Ready s c t tm (.sysw a 41 z) z .no [srcOnce a] → tm.p1 = true → NothingDue s c tm →
    let v : DWord := (tm.read false tm.first a).val.setWidth 32 ++ tm.xinvlo
    (tm.second = false → v.toNat / 2 ^ 56 = 0 → v.toNat / 4 % 2 ^ 14 = 0 → v.toNat % 4 < 2 →
      ∃ s' tm' x, exec (.sysw a 41 z) s = .next s' ∧ s'.team? c t = some tm' ∧ Parked tm tm' ⟨.xinv, 0, 0⟩ ∧
        x ∈ s'.xinvs ∧ x.core = c ∧ x.team = t ∧ x.ctx = s.ctxOf c ∧
        x.vpn = (if v.toNat % 4 = 0 then some (v.toNat / 2 ^ 16 % 2 ^ 40) else none)) ∧
    (tm.second = false → v.toNat / 2 ^ 56 ≠ 0 ∨ v.toNat / 4 % 2 ^ 14 ≠ 0 ∨ 2 ≤ v.toNat % 4 →
      TrapsFrom s c t tm { cause := .illegalInstruction, kind := .precise } (exec (.sysw a 41 z) s)) ∧
    (tm.second = true → (∀ x ∈ s.xinvs, ¬(x.core = c ∧ x.team = t)) →
      ∃ s' tm', exec (.sysw a 41 z) s = .next s' ∧ s'.team? c t = some tm' ∧ Advanced tm tm' z ∧ SameRegs tm tm' ∧
        OnlyTeam s s' c t)) ∧
  (∀ (s : State) (x : Xinv), x.removed = false → s.storesHome x.core x.team = true →
    (∀ vpn : BitVec 40, (s.xinvs.find? fun y => !y.removed && y.vpn == some vpn.toNat) = some x →
      exec (.xinvLeaf vpn) s = .next (s.xinvRemove x)) ∧
    ((s.xinvs.find? fun y => !y.removed && y.vpn.isNone) = some x → exec .xinvContext s = .next (s.xinvRemove x)) ∧
    (∀ c, ∀ e ∈ ((s.xinvRemove x).core c).tlb, x.hits e = false) ∧
    (∀ q ∈ (s.xinvRemove x).l2tlb, ∀ e ∈ q.2, x.hits e = false) ∧
    (∀ q ∈ (s.xinvRemove x).ptrs, ∀ e ∈ q.2, e.ctx ≠ x.ctx) ∧
    (∀ w ∈ (s.xinvRemove x).walks, w.ctx = x.ctx → w.res = none) ∧
    ∀ b, (s.xinvRemove x).homeByte b = s.homeByte b) ∧
  (∀ (s : State) (x : Xinv), x.removed = false → s.storesHome x.core x.team = false →
    (∀ vpn : BitVec 40, (s.xinvs.find? fun y => !y.removed && y.vpn == some vpn.toNat) = some x →
      exec (.xinvLeaf vpn) s = .next s) ∧
    ((s.xinvs.find? fun y => !y.removed && y.vpn.isNone) = some x → exec .xinvContext s = .next s)) ∧
  ∀ (s : State) (c t : Nat) (x : Xinv), (s.xinvs.find? fun x => x.core == c && x.team == t) = some x → x.removed = true →
    (s.xinvBusy x = true → exec (.xinvComplete c t) s = .next s) ∧
    (s.xinvBusy x = false → ∃ s', exec (.xinvComplete c t) s = .next s' ∧ x ∉ s'.xinvs ∧ (∀ b, s'.homeByte b = s.homeByte b) ∧
      ∀ tm, t < 16 → s.team? c t = some tm → tm.status = .parked → tm.wait = ⟨.xinv, 0, 0⟩ →
        (∀ y ∈ s.xinvs, y.core = c → y.team = t → y = x) →
        ∃ tm', s'.team? c t = some tm' ∧ tm'.status = .live ∧ tm'.pc = tm.pc ∧ SameRegs tm tm' ∧ SameFlags tm tm')

/-! Control (R332 to R361). -/

/-- R339, R340: BRA goes on at its target; CALL pushes a call entry of the next word's address and goes on at its target;
RCV pushes a join entry for its target. CALL and RCV on a full stack raise Divergence Overflow. -/
def Obligations.BranchCallAndJoin : Prop :=
  (∀ s c t tm off p, Ready s c t tm (.bra off p) true .no [] → NoPop p tm →
    ∃ s' tm', exec (.bra off p) s = .next s' ∧ s'.team? c t = some tm' ∧
      Runs tm tm' (branchTarget tm off) tm.act tm.stack ∧ OnlyPlace tm tm' ∧ OnlyTeam s s' c t) ∧
  (∀ s c t tm off p, Ready s c t tm (.call off p) true .no [] → NoPop p tm →
    (tm.entries.length < Config.stackEntries →
      ∃ s' tm', exec (.call off p) s = .next s' ∧ s'.team? c t = some tm' ∧
        Runs tm tm' (branchTarget tm off) tm.act (.call (tm.pc + 4) 0 :: tm.stack) ∧ OnlyPlace tm tm' ∧ OnlyTeam s s' c t) ∧
    (Config.stackEntries ≤ tm.entries.length →
      TrapsFrom s c t tm { cause := .divergenceOverflow, kind := .precise } (exec (.call off p) s))) ∧
  ∀ s c t tm off p z, Ready s c t tm (.rcv off p z) z .no [] → NoPop p tm →
    (tm.entries.length < Config.stackEntries →
      ∃ s' tm', exec (.rcv off p z) s = .next s' ∧ s'.team? c t = some tm' ∧ Advanced tm tm' z ∧
        freshMarks tm'.stack = .join (branchTarget tm off) 0 :: freshMarks tm.stack ∧ tm'.act = tm.act ∧ SameRegs tm tm' ∧ SameFlags tm tm' ∧
        SameLatches tm tm' ∧ OnlyPlace tm tm' ∧ OnlyTeam s s' c t) ∧
    (Config.stackEntries ≤ tm.entries.length →
      TrapsFrom s c t tm { cause := .divergenceOverflow, kind := .precise } (exec (.rcv off p z) s))

/-- R337, R340: BRK. With the flag set in no active lane the path goes on at the next word, with the flag set in every one at
the target; else the path splits: the part of the lowest active lane runs, and the other waits on the stack, or Divergence
Overflow is raised where the stack is full.
R336: the resume procedure takes the topmost entry: a pending path runs; a join or a call entry runs with the lanes that
arrived, or is passed over where none did. R335: before a word with P = 1, or an ADV.SCHED with J = 1, at the address of the topmost join entry the path arrives
there and does not execute the word; the team goes on with the next path of the stack, or with all that have arrived. -/
def Obligations.PathsSplitAndJoin : Prop :=
  (∀ s c t tm (f : BrK), Ready s c t tm (.brk f) true .no [] → NoPop f.p tm →
     let y := flagged tm f.k
     let n := tm.act &&& ~~~y
     let goes (pc : DWord) (act : LaneMask) (stack : List StackEntry) : Prop :=
       ∃ s' tm', exec (.brk f) s = .next s' ∧ s'.team? c t = some tm' ∧ Runs tm tm' pc act stack ∧ OnlyPlace tm tm' ∧
         OnlyTeam s s' c t
     (y = 0 → goes (tm.pc + 4) tm.act tm.stack) ∧
     (y ≠ 0 → n = 0 → goes (branchTarget tm f.off) tm.act tm.stack) ∧
     (y ≠ 0 → n ≠ 0 → tm.entries.length < Config.stackEntries →
       if tm.flag tm.first f.k then goes (branchTarget tm f.off) y (.path (tm.pc + 4) n .pending :: tm.stack)
       else goes (tm.pc + 4) n (.path (branchTarget tm f.off) y .pending :: tm.stack)) ∧
     (y ≠ 0 → n ≠ 0 → Config.stackEntries ≤ tm.entries.length →
       TrapsFrom s c t tm { cause := .divergenceOverflow, kind := .precise } (exec (.brk f) s))) ∧
  ((∀ (s : State) (c t : Nat) (tm : Team) (pc : DWord) (m : LaneMask) (r : List StackEntry),
     s.cur = ⟨c, t⟩ → s.team? c t = some tm → tm.status = .live → tm.gathering = false → topJoin tm.stack = some tm.pc →
     resumeStack (joinArrive tm.act tm.stack) = (.run pc m, r) →
     ∀ i, (∃ off, i = Instr.bra off true ∨ i = .call off true ∨ ∃ z, i = .rcv off true z) ∨
         (∃ f : BrK, f.p = true ∧ (i = .brk f ∨ i = .refill f)) ∨ (∃ d, i = .advSched d true) →
       ∃ s' tm', exec i s = .next s' ∧ s'.team? c t = some tm' ∧ Runs tm tm' pc m r ∧ OnlyPlace tm tm' ∧ OnlyTeam s s' c t) ∧
   ∀ (a : DWord) (m : LaneMask) (st : PathStop) (r : List StackEntry),
     resumeStack (.path a m st :: r) = (.run a m, r) ∧
     (m ≠ 0 → resumeStack (.join a m :: r) = (.run a m, r) ∧ resumeStack (.call a m :: r) = (.run a m, r)) ∧
     resumeStack (.join a 0 :: r) = resumeStack r ∧ resumeStack (.call a 0 :: r) = resumeStack r ∧ resumeStack [] = (.empty, []))

/-- R343: RET arrives at the topmost call entry, and the team goes on as R336 says: with no path above the entry, at its return
address with every lane that returned. With no call entry above the refill frame or a handler boundary it raises Divergence
Overflow. -/
def Obligations.Return : Prop :=
  ∀ s c t tm, Ready s c t tm .ret true .no [] →
    (hasCall tm.stack = true → tm.gathering = false →
      ∃ pc m r s' tm', resumeStack (callArrive tm.act tm.stack) = (.run pc m, r) ∧ exec .ret s = .next s' ∧
        s'.team? c t = some tm' ∧ Runs tm tm' pc m r ∧ OnlyPlace tm tm' ∧ OnlyTeam s s' c t ∧
        ∀ a x rest, tm.stack = .call a x :: rest → pc = a ∧ m = x ||| tm.act ∧ r = rest) ∧
    (hasCall tm.stack = false →
      TrapsFrom s c t tm { cause := .divergenceOverflow, kind := .precise } (exec .ret s))

/-- R344: the targets of BRX and CALLX, one for each active lane, taken by groups of equal targets: the group of the lowest
active lane runs, the others wait on the stack in the order of their lowest lanes, under them the call entry of CALLX. A lane
whose target is no LPAD with the word's tag traps: Landing Pad, with the first such lane's target, for every such lane whose
fetch gives the same XFAULT value (R432); only then is a full stack met (R60, entry 68). -/
def Obligations.IndirectTransfers : Prop :=
  ∀ p ∈ ([(Instr.brx, false), (.callx, true)] : List ((IndF → Instr) × Bool)), ∀ f : IndF,
    ∀ s c t tm, Ready s c t tm (p.1 f) true .no [src1 f.a] →
      let group (x : DWord) : LaneMask := maskOf (tm.active.filter fun l => laneTarget tm f.a l == x)
      ∀ x rest, (tm.active.map (laneTarget tm f.a)).eraseDups = x :: rest →
        let room := rest.length + (if p.2 then 1 else 0) + tm.entries.length ≤ Config.stackEntries
        let bad := tm.active.filter fun l => !s.lands c tm f l
        (room → tm.active.all (s.lands c tm f) = true →
          ∃ s' tm', exec (p.1 f) s = .next s' ∧ s'.team? c t = some tm' ∧
            Runs tm tm' x (group x) ((rest.map fun y => .path y (group y) .pending) ++
              (if p.2 then [.call (tm.pc + 4) 0] else []) ++ tm.stack) ∧ OnlyPlace tm tm' ∧ OnlyTeam s s' c t) ∧
        (∀ l more, bad = l :: more →
          ∃ xf m, ((s.lookAt c (laneTarget tm f.a l) tm.p1).isSome → xf = 0) ∧
            m.getLsbD l = true ∧ (∀ j, m.getLsbD j = true → j ∈ bad) ∧
            ((∀ j ∈ bad, (s.lookAt c (laneTarget tm f.a j) tm.p1).isSome) → m = maskOf bad) ∧
            TrapsFrom s c t tm { cause := .landingPad, kind := .precise, addr := (laneTarget tm f.a l).toNat
                                 mask := some m, xfault := xf } (exec (p.1 f) s)) ∧
        (¬room → bad = [] → TrapsFrom s c t tm { cause := .divergenceOverflow, kind := .precise } (exec (p.1 f) s))

/-- R215: SETIX and SETSIX set the window registers ix and six, once for the team, from the lowest active lane or the
immediate, modulo their widths. R345, R382, R383: LPAD has no effect of its own. YIELD ends the clause, whatever its Z bit. HEART records a token that
differs, and clears the second interval of a persistent kernel (R411). -/
def Obligations.WordsOnOneRegister : Prop :=
  (∀ a z, TeamWord (.setix a z) z [srcOnce a] (fun t => { t with ix := (t.read false t.first a).val.setWidth 9 }) ∧
    TeamWord (.setsix a z) z [srcOnce a] (fun t => { t with six := (t.read false t.first a).val.setWidth 6 })) ∧
  (∀ imm z, TeamWord (.setixImm imm z) z [] (fun t => { t with ix := imm })) ∧
  (∀ imm z, TeamWord (.setsixImm imm z) z [] (fun t => { t with six := imm })) ∧
  (∀ tag z, TeamWord (.lpad tag z) z [] id) ∧
  (∀ a z, TeamWord (.heart a z) z [srcOnce a] fun tm =>
    let x : Word := (tm.read false tm.first a).val.setWidth 32
    if x = tm.htoken then tm
    else { tm with htoken := x, wdog2From := if tm.pers then none else tm.wdog2From }) ∧
  ∀ s c t tm z, Ready s c t tm (.yield z) z .no [] →
    ∃ s' tm', exec (.yield z) s = .next s' ∧ s'.team? c t = some tm' ∧ Advanced tm tm' true ∧ SameRegs tm tm' ∧
      SameFlags tm tm' ∧ tm'.rest = ({ tm with yielded := true } : Team).rest ∧ OnlyTeam s s' c t

/-- R336, R346: EXIT ends the path where another path or join of the team has lanes; else, with nothing of the team
outstanding and no failure to raise (entry 24), it ends the team. -/
def Obligations.ExitEndsPathsAndTeams : Prop :=
  ∀ s c t tm, Ready s c t tm .exit true .no [] → tm.gathering = false →
    (∀ pc m r, frameOf tm.stack = none → resumeStack tm.stack = (.run pc m, r) →
      ∃ s' tm', exec .exit s = .next s' ∧ s'.team? c t = some tm' ∧ Runs tm tm' pc m r ∧
        { tm'.rest with act := 0, stack := [], helpers := 0 } = { tm.rest with act := 0, stack := [], helpers := 0 } ∧
        OnlyTeam s s' c t) ∧
    ((frameOf tm.stack).isSome ∨ (resumeStack tm.stack).1 = .empty → s.exitReady c t tm = true → tm.failed = [] → tm.bad = [] → tm.late = [] →
      ∃ s' tm', exec .exit s = .next s' ∧ s'.team? c t = some tm' ∧ tm'.status = .exited ∧ tm'.act = 0 ∧ tm'.stack = [] ∧
        OthersStay s s' c t) ∧
    ((frameOf tm.stack).isSome ∨ (resumeStack tm.stack).1 = .empty → s.exitReady c t tm = false → NothingDue s c tm →
      ∃ s' tm', exec .exit s = .next s' ∧ s'.team? c t = some tm' ∧ Parked tm tm' ⟨.exit, 0, 0⟩ ∧ OnlyTeam s s' c t)

/-- R350 to R353: REFILL in the body section, over any lanes that wait at the frame. Unordered, the lanes whose flag is set
make one run; with ORD they join the held lanes, and runs of consecutive iterations from TICKET on leave them (R352). The first
run goes through the retire section, the others and those of an earlier REFILL after it; with no run and nobody that has still to
draw the path goes on at the label; lanes that an earlier REFILL retired draw the next iterations in ascending lane order and go
through the prologue. How the REFILLs of paths that were pending meet is the model's choice (entry 44). Elsewhere the word raises
Illegal Instruction. -/
def Obligations.Refill : Prop :=
  ∀ s c t tm (f : BrK) b, s.block? c = some b → NoPop f.p tm →
    (Ready s c t tm (.refill f) true .yes [] → tm.size ≤ 1024 → b.rec_.rf = true →
      b.rec_.body.toNat ≤ tm.pc.toNat → tm.pc.toNat + 4 ≤ b.rec_.retire.toNat →
      ∀ fr, frameOf tm.stack = some fr → tm.phaseLanes &&& ~~~tm.act = 0 →
        let d := flagged tm f.k
        let stay := tm.act &&& ~~~d
        let iter (l : Nat) : Nat := ((PMap.get? tm.iter l).getD 0).toNat
        let before := if fr.phase = .prologue then [] else fr.retired
        let cont := fr.cont ||| stay ||| (if fr.phase = .prologue then fr.drew else 0)
        ∃ runs held,
          (if b.rec_.ord then OrderedRuns iter (tm.lanesOf stay) tm.rangeNext.toNat tm.ticket.toNat (tm.lanesOf (fr.held ||| d)) runs held
            else runs = (if d = 0 then [] else [tm.lanesOf d]) ∧ held = tm.lanesOf fr.held) ∧
          let retired := tm.lanesOf (maskOf (before ++ (runs ++ fr.runs).flatten))
          let goes (pc : DWord) (act : LaneMask) (ph : Phase) (more : Team → RefillFrame → Prop) : Prop :=
            ∃ s' tm' fr' stack, exec (.refill f) s = .next s' ∧ s'.team? c t = some tm' ∧ Runs tm tm' pc act stack ∧
              freshMarks stack = freshMarks (setFrame fr' tm.stack) ∧ fr'.phase = ph ∧ fr'.label = branchTarget tm f.off ∧
              fr'.held = maskOf held ∧ more tm' fr' ∧ ∀ a, s'.homeByte a = s.homeByte a
          (∀ run rest, runs ++ fr.runs = run :: rest → goes b.rec_.retire (maskOf run) .retire fun _ fr' =>
            fr'.runs = rest ∧ fr'.cont = cont ∧ fr'.retired = retired) ∧
          (runs ++ fr.runs = [] → before = [] → cont ≠ 0 → goes (branchTarget tm f.off) cont .body fun tm' _ => tm'.iter = tm.iter) ∧
          (runs ++ fr.runs = [] → retired ≠ [] → tm.rangeNext.toNat + retired.length ≤ tm.rangeEnd.toNat →
            goes b.rec_.entry (maskOf retired) .prologue fun tm' fr' => fr'.cont = cont ∧ fr'.drew = maskOf retired ∧
              tm'.rangeNext = tm.rangeNext + BitVec.ofNat 32 retired.length ∧
              ∀ k l, retired[k]? = some l → PMap.get? tm'.iter l = some (tm.rangeNext + BitVec.ofNat 32 k))) ∧
    (s.cur = ⟨c, t⟩ → s.team? c t = some tm → tm.status = .live →
      b.rec_.rf = false ∨ tm.pc.toNat < b.rec_.body.toNat ∨ b.rec_.retire.toNat < tm.pc.toNat + 4 →
      TrapsFrom s c t tm { cause := .illegalInstruction, kind := .precise } (exec (.refill f) s))

/-! Barriers, adverbs, loads, scratchpad words and waits (R49 to R58, R141 to R161, R373 to R380). -/

/-- R377, R378, R380: BAR.ARR queues the team's arrival, which releases at CORE scope, at DOMAIN for a GRID barrier, and goes
on. BAR.WAIT goes on where no arrival is pending or its phase is complete; else the team parks, or, where the phase cannot
complete, raises Barrier Mismatch. BAR.SYNC is both in one word: it parks with its arrival queued and goes on, reached again,
once the phase is complete. R376: a barrier the kernel does not assign raises Barrier Mismatch with its number. -/
def Obligations.BarrierWords : Prop :=
  ∀ (s : State) (c t : Nat) (tm : Team) (b : Block) (nb : BitVec 6) (z : Bool), s.block? c = some b →
    let n := nb.toNat
    let mis : Trap := { cause := .barrierMismatch, kind := .precise, arg := n }
    let words : List (Instr × Bool) := [(.barArr nb z, z), (.barWait nb, true), (.barSync nb z, z)]
    (∀ p ∈ words, Ready s c t tm p.1 p.2 .barrier [] → PMap.get? b.bars n = none → TrapsFrom s c t tm mis (exec p.1 s)) ∧
    ∀ x, PMap.get? b.bars n = some x → ¬(tm.p1 = false ∧ tm.inRun = true) → tm.stoppedAtBarrier = 0 →
      let sc : Scope := if x.scope = .grid then .domain else .core
      let mayArrive := s.pendOpen c tm n = false ∧ tm.sq.length < Config.storeQueue ∧
        (x.scope = .grid → s.teamRemoteQuiet c t tm = true ∧ tm.failed = [])
      let arrived (tm' : Team) : Prop := tm'.sq = tm.sq ++ [⟨tm.seq, .barrier n, some sc, none, tm.wordPc, tm.p1⟩] ∧ (PMap.get? tm'.pend n).isSome
      (Ready s c t tm (.barArr nb z) z .barrier [] → mayArrive →
        ∃ s' tm', exec (.barArr nb z) s = .next s' ∧ s'.team? c t = some tm' ∧ Advanced tm tm' z ∧ arrived tm' ∧
          SameRegs tm tm' ∧ SameFlags tm tm' ∧ SameLatches tm tm' ∧ OnlyTeam s s' c t) ∧
      (∀ p ∈ ([(Instr.barWait nb, tm.second), (.barSync nb z, true)] : List (Instr × Bool)), tm.second = p.2 →
        Ready s c t tm p.1 (if p.1 = .barWait nb then true else z) .barrier [] →
        ((PMap.get? tm.pend n = none ∨ s.pendOpen c tm n = false) →
          ∃ s' tm', exec p.1 s = .next s' ∧ s'.team? c t = some tm' ∧ Advanced tm tm' true ∧ PMap.get? tm'.pend n = none ∧
            SameRegs tm tm' ∧ SameFlags tm tm' ∧ (∀ a, s'.homeByte a = s.homeByte a) ∧
            (x.scope = .grid → PMap.get? tm.pend n ≠ none → (s'.core c).l1 = [])) ∧
        (PMap.get? tm.pend n ≠ none → s.pendOpen c tm n = true → s.canComplete c n = true → NothingDue s c tm →
          ∃ s' tm', exec p.1 s = .next s' ∧ s'.team? c t = some tm' ∧ Parked tm tm' ⟨.barrier, n, 0⟩ ∧ OnlyTeam s s' c t) ∧
        (PMap.get? tm.pend n ≠ none → s.pendOpen c tm n = true → s.canComplete c n = false →
          TrapsFrom s c t tm mis (exec p.1 s))) ∧
      (Ready s c t tm (.barSync nb z) z .barrier [] → tm.second = false → mayArrive → s.canComplete c n = true → NothingDue s c tm →
        ∃ s' tm', exec (.barSync nb z) s = .next s' ∧ s'.team? c t = some tm' ∧ Parked tm tm' ⟨.barrier, n, 0⟩ ∧ arrived tm' ∧
          tm'.second = true ∧ OnlyTeam s s' c t)

/-- ADV.IMM, ADV.RND, ADV.SCOPE, ADV.CACHE, ADV.SCHED and ADV.TAG. R49: an adverb waits for the word it modifies: alone before a word that it may modify, as the first of two kinds that both
may modify the word after them, or as the second of them. R50 to R55: an adverb before another word it may not modify raises
Illegal Instruction; that SKIP then passes over both is the model's reading of R399 (chapter 20, entry 45). -/
def Obligations.AdverbWords : Prop :=
  ∀ (s : State) (c t : Nat) (tm : Team) (i : Instr) (a : Adverb), adverbOf i = some a →
    s.cur = ⟨c, t⟩ → s.team? c t = some tm → tm.status = .live → tm.words < 23 →
    (∀ d, i = .advSched d true → topJoin tm.stack ≠ some tm.pc) →
    let word (k : DWord) : Option Word := s.lookAt c (tm.pc + k) tm.p1
    let adverb (w : Word) : Prop := fOp w.toNat = 0x3F
    let alone := tm.advs = [] ∧ ∃ w, word 4 = some w ∧ ¬adverb w ∧ a.modifies w.toNat = true
    let first := tm.advs = [] ∧ ∃ w v j b, word 4 = some w ∧ adverb w ∧ decode w = .ok j ∧ adverbOf j = some b ∧
      b.kind ≠ a.kind ∧ word 8 = some v ∧ ¬adverb v ∧ a.modifies v.toNat = true ∧ b.modifies v.toNat = true
    let second := ∃ b, tm.advs = [b] ∧ b.kind ≠ a.kind
    (alone ∨ first ∨ second →
      ∃ s' tm', exec i s = .next s' ∧ s'.team? c t = some tm' ∧ tm'.advs = tm.advs ++ [a] ∧ tm'.pc = tm.pc + 4 ∧
        tm'.words = tm.words + 1 ∧ tm'.wordPc = tm.wordPc ∧ SameRegs tm tm' ∧ SameFlags tm tm' ∧ SameLatches tm tm' ∧
        { tm'.rest with advPc := 0 } = { tm.rest with advPc := 0 } ∧ OnlyTeam s s' c t) ∧
    (tm.advs = [] → ∀ w, word 4 = some w → ¬adverb w → a.modifies w.toNat = false →
      TrapsFrom s c t tm { cause := .illegalInstruction, kind := .precise, after := 8 } (exec i s))

/-- R141, R146, R151, R157: LD, LDC and GATH issue one pass for each warp; each active lane that has no failing leaf is then
outstanding with its address, and each one whose leaf refuses it is recorded in a fault entry with the cause; no destination is
written yet, LDC taints it in the active lanes, another load leaves its taint; that LDC does so at issue already, and gives a uniform
register those lanes' bits alone, is the model's reading (entries 28, 70). R146: misaligned and non-canonical lanes trap before any pass. -/
def Obligations.LoadsIssue : Prop :=
  let lds : List ((LdF → Instr) × Size × Bool) :=
    [(.ldB, .b, false), (.ldH, .h, false), (.ldW, .w, false), (.ldD, .d, false), (.ldQ, .q, false),
     (.ldcB, .b, true), (.ldcH, .h, true), (.ldcW, .w, true), (.ldcD, .d, true), (.ldcQ, .q, true)]
  let gaths : List ((GathF → Instr) × Size) := [(.gathW, .w), (.gathD, .d)]
  let issues (i : Instr) (z : Bool) (us : List Use) (d : Opd) (ac : Nat) (sz : Size) (consume : Bool)
      (va : Team → Nat → Nat) : Prop :=
    ∀ s c t tm, Ready s c t tm i z .no us → tm.fenced = false →
      let n := Size.regs sz
      AddressTraps s c t tm (Size.bytes sz) (va tm) true (exec i s) ∧
      ((∀ l ∈ tm.active, va tm l % Size.bytes sz = 0 ∧ va tm l < 2 ^ 56) →
        ∃ s' tm', exec i s = .next s' ∧ s'.team? c t = some tm' ∧ Advanced tm tm' z ∧ tm'.seq = tm.seq + 1 ∧
          SameValues tm tm' tm.active ∧ SameFlags tm tm' ∧ SameLatches tm tm' ∧ OthersStay s s' c t ∧ s'.blocks = s.blocks ∧
          ((∀ k, tm.dest d = .lane k → k + n ≤ 1024) →
            (∀ l ∈ tm.active, ∀ r, r < 1024 → (tm'.laneHeld l r).taint = ((tm.laneHeld l r).taint ||
              (consume && match tm.dest d with
                | .lane k => decide (k ≤ r ∧ r < k + n)
                | _ => false))) ∧
            ∀ r, (tm'.uniHeld r).taint = match tm.dest d with
              | .uni k => if consume = true ∧ k ≤ r ∧ r < k + n then tm.act else (tm.uniHeld r).taint
              | _ => (tm.uniHeld r).taint) ∧
          ((∀ p ∈ tm.out, p.id ≤ s.fresh) →
            let leaf (l : Nat) : Option TlbEntry := s.tlbHit c (s.ctxOf c) (va tm l)
            let passes (l : Nat) : Prop := ∀ e, leaf l = some e → ∃ pa, s.leafAccess e (va tm l) .read tm.p1 = .ok pa
            (∀ l ∈ tm.active, passes l → ∃ p ∈ tm'.out, p.seq = tm.seq ∧ p.ac = ac ∧ p.size = Size.bytes sz ∧ p.consume = consume ∧
              p.dest = tm.dest d ∧ p.counts = true ∧ p.warp = l / 32 ∧
              ∃ x ∈ p.lanes, x.lane = l ∧ x.va = va tm l ∧ x.helper = false) ∧
            ((∀ l ∈ tm.active, (leaf l).isSome) → ∀ l ∈ tm.active, ∀ e cause xf, leaf l = some e →
              s.leafAccess e (va tm l) .read tm.p1 = .error (cause, xf) →
              ∃ y ∈ tm'.faults ++ tm'.overflow, y.pc = tm.wordPc ∧ y.ac = ac ∧ y.arrival = false ∧
                ∃ x ∈ y.lanes, x.lane = l ∧ x.va = va tm l ∧ x.cause = cause ∧ x.xfault = xf) ∧
            ((∀ l ∈ tm.parts, va tm l % Size.bytes sz = 0 ∧ va tm l < 2 ^ 56 ∧ passes l) →
              SameValues tm tm' (List.range tm.size) ∧ tm'.ac = tm.ac ∧ tm'.faults = tm.faults)))
  (∀ p ∈ lds, ∀ f : LdF, issues (p.1 f) f.z [src1 f.a, dstN f.d (Size.regs p.2.1)] f.d f.ac.toNat p.2.1 p.2.2 fun tm =>
    laneAddress tm f.a (f.off.toNat * Size.bytes p.2.1)) ∧
  ∀ p ∈ gaths, ∀ f : GathF, issues (p.1 f) f.z [src1 f.a, src1 f.b, dstN f.d (Size.regs p.2)] f.d f.ac.toNat p.2 false fun tm l =>
    laneAddress tm f.a (((tm.read false l f.b).val.setWidth 32).toInt * Size.bytes p.2) l

/-- R143, R145, R149: LOAD_REPLY for a local lane that nothing older holds back, once its home slice holds the sector, writes the
lane's destination with the bytes of main memory, zero-extended, where the team has queued no store and the core holds neither
stores under way nor an L1 copy; the last active lane of a pass adds one to its counter, which stays at 65,535. Before that the
lane stays, and its sector's read stands with the stack (R125). That the bytes are those of main memory at this move, and when the
sector's request stands, is the model's choice (entries 10 and 48). -/
def Obligations.LoadReply : Prop :=
  ∀ (s : State) (c t pass lane : Nat) (tm : Team) (p : OutPass) (x : LaneReq) (pa a : Nat), s.team? c t = some tm →
    tm.out.find? (fun q => q.id == pass) = some p → p.lanes.find? (fun y => y.lane == lane) = some x → x.pa = some pa →
    x.sent = false → tm.mayLand p x = true → s.route pa = .local_ a → s.poisoned (a / 64) = false →
    tm.sq = [] → (s.core c).order = [] → PMap.has (s.core c).l1 (a / 64) = false → tm.status = .live →
    (p.lanes.map (·.lane)).Nodup →
    let n := if p.size ≤ 4 then 1 else p.size / 4
    let data := s.homeNat a p.size
    (s.l2Has (a / 64) = false → ∃ s' tm', exec (.loadReply c t pass lane) s = .next s' ∧ s'.team? c t = some tm' ∧
      tm'.out = tm.out ∧ SameRegs tm tm' ∧ SameFlags tm tm' ∧ tm'.ac = tm.ac ∧ OthersStay s s' c t ∧
      ((∃ r ∈ s'.hbmReqs, r.sector = a / 64) ∨ ∃ r ∈ s'.hbmWait, r.sector = a / 64)) ∧
    (s.l2Has (a / 64) = true → ∃ s' tm', exec (.loadReply c t pass lane) s = .next s' ∧ s'.team? c t = some tm' ∧
      ((∀ d, p.dest = .lane d → d + n ≤ 1024) →
        (∀ l r, r < 1024 → tm'.laneHeld l r = match p.dest with
          | .lane d => if x.writes = true ∧ l = lane ∧ d ≤ r ∧ r < d + n then ⟨wordOf data (r - d), p.consume⟩ else tm.laneHeld l r
          | _ => tm.laneHeld l r) ∧
        ∀ r, tm'.uniHeld r = match p.dest with
          | .uni d => if x.writes = true ∧ d ≤ r ∧ r < d + n then ⟨wordOf data (r - d), p.taint⟩ else tm.uniHeld r
          | _ => tm.uniHeld r) ∧
      (∀ q ∈ tm'.out, q.id = pass → ∀ y ∈ q.lanes, y.lane ≠ lane) ∧
      (∀ k, tm'.acv k = if k = p.ac ∧ p.counts = true ∧ x.helper = false ∧ (∀ y ∈ p.lanes, y.lane ≠ lane → y.helper = true)
        then min (tm.acv k + 1) 65535 else tm.acv k) ∧
      SameFlags tm tm' ∧ SameLatches tm tm' ∧ tm'.pc = tm.pc ∧ tm'.act = tm.act ∧ OthersStay s s' c t)

/-- R133, R160, R161, R414: LDP reads and STP writes the team's own scratchpad at once, a warp's pass at a time, in order; the word
is over with its last pass. What LDP writes is tainted where the lane's base was (entry 70). That a pass is a step, that every lane's
address is checked before the first pass and kept, and that earlier passes stand at an absent line is the model's choice (entries 1
and 35). With overlapping lanes the highest lane's byte stays. R160: misaligned lanes trap. R133: own
scratchpad ends at its banks: Permission beyond. R135: an absent line of the pass parks the team with its number. What STP.Q
stores from a latch beyond its 64 bits is free (entry 21). R175: PRES writes a flag of each computing lane: whether its address's
line is present. -/
def Obligations.ScratchpadWords : Prop :=
  (∀ (s : State) (c t : Nat) (tm : Team) (b : Block) (f : PadF), s.block? c = some b → tm.fenced = false →
    let size := Size.bytes f.sz
    let n := Size.regs f.sz
    let done := (tm.pad.map (·.done)).getD []
    let va (l : Nat) : Nat := (tm.pad.bind fun p => PMap.get? p.addr l).getD (padAddress tm f.a (f.off.toNat * size) l)
    let taint (l : Nat) : Bool := (tm.pad.map fun p => p.tainted.contains l).getD (tm.read false l f.a).taint
    let words : List (Instr × List Use) := [(.ldp f, [src1 f.a, dstN f.d n]), (.stp f, [src1 f.a, srcN f.d n])]
    let lanes (i : Instr) (w : Nat) : List Nat := (if i = .stp f then tm.active else tm.parts).filter fun l => l / 32 == w
    let aligned := ∀ l ∈ tm.active, va l % size = 0
    let inside := ∀ l ∈ tm.active, va l + size ≤ b.spBytes
    let goesOn (tm' : Team) (w : Nat) (r : List Nat) : Prop :=
      (r = [] → Advanced tm tm' f.z) ∧
      (r ≠ [] → tm'.pc = tm.pc ∧ tm'.words = tm.words ∧ tm'.advs = tm.advs ∧
        ∃ p, tm'.pad = some p ∧ p.done = w :: done ∧
          ∀ l ∈ tm.parts, PMap.get? p.addr l = some (va l) ∧ p.tainted.contains l = taint l)
    (∀ p ∈ words, Ready s c t tm p.1 f.z .no p.2 → AddressTraps s c t tm size va false (exec p.1 s)) ∧
    (∀ p ∈ words, Ready s c t tm p.1 f.z .no p.2 → aligned → ∀ l r, tm.active.filter (fun l => decide (b.spBytes ≤ va l)) = l :: r →
      (∀ k ∈ l :: r, va k < 2 ^ 31) →
      TrapsFrom s c t tm { cause := .permission, kind := .precise, addr := va l, mask := some (maskOf (l :: r))
                           xfault := BitVec.ofNat 32 (128 + if p.1 = .stp f then 16 else 0) } (exec p.1 s)) ∧
    ∀ w r, tm.warps.filter (fun w => !done.contains w) = w :: r → aligned → inside →
      (∀ p ∈ words, Ready s c t tm p.1 f.z .no p.2 → tm.faults = [] → tm.overflow = [] → NothingDue s c tm → b.upSp = [] →
        ∀ l m, lanes p.1 w = l :: m → va l < b.spBytes → va l / 128 ∈ b.absent →
          ∃ s' tm', exec p.1 s = .next s' ∧ s'.team? c t = some tm' ∧ Parked tm tm' ⟨.presence, 0, va l / 128⟩ ∧ OnlyTeam s s' c t) ∧
      (Ready s c t tm (.ldp f) f.z .no [src1 f.a, dstN f.d n] → b.upSp = [] →
        (∀ l ∈ lanes (.ldp f) w, va l % size = 0 ∧ va l < b.spBytes ∧ va l / 128 ∉ b.absent) →
        let data (l : Nat) : Nat := leNat (b.spadBytes (va l) size)
        ∃ s' tm', exec (.ldp f) s = .next s' ∧ s'.team? c t = some tm' ∧ goesOn tm' w r ∧
          (∀ l r, r < 1024 → tm'.laneHeld l r = match tm.dest f.d with
            | .lane d => if l ∈ lanes (.ldp f) w ∧ d ≤ r ∧ r < d + n then ⟨wordOf (data l) (r - d), taint l⟩ else tm.laneHeld l r
            | _ => tm.laneHeld l r) ∧
          (∀ r, tm'.uniHeld r = match tm.dest f.d with
            | .uni d => if tm.first / 32 = w ∧ d ≤ r ∧ r < d + n then ⟨wordOf (data tm.first) (r - d), maskOf (tm.parts.filter taint)⟩
              else tm.uniHeld r
            | _ => tm.uniHeld r) ∧
          SameFlags tm tm' ∧ SameLatches tm tm' ∧ OnlyTeam s s' c t) ∧
      (Ready s c t tm (.stp f) f.z .no [src1 f.a, srcN f.d n] → (∀ l ∈ lanes (.stp f) w, va l / 128 ∉ b.absent) →
        ∃ s' tm' b', exec (.stp f) s = .next s' ∧ s'.team? c t = some tm' ∧ goesOn tm' w r ∧ SameRegs tm tm' ∧
          SameFlags tm tm' ∧ SameLatches tm tm' ∧ tm'.sq = tm.sq ∧ s'.block? c = some b' ∧
          (∀ o, match ((lanes (.stp f) w).filter fun l => decide (va l ≤ o ∧ o < va l + size)).getLast? with
            | some l => (f.d.notLatch = true ∨ o < va l + 8) →
                b'.spad? o = BitVec.ofNat 8 ((tm.readWide n l f.d).toNat / 2 ^ (8 * (o - va l)))
            | none => b'.spad? o = b.spad? o) ∧
          (∀ o, b'.acc? o = b.acc? o) ∧ b'.absent = b.absent ∧ (∀ a, s'.homeByte a = s.homeByte a) ∧
          (∀ k, k ≠ c → PMap.get? s'.blocks k = PMap.get? s.blocks k) ∧
          ∀ k, k ≠ 16 * c + t → PMap.get? s'.teams k = PMap.get? s.teams k)) ∧
  ∀ s c t tm k a z b, Ready s c t tm (.pres k a z) z .no [src1 a] → s.block? c = some b → tm.faults = [] → tm.overflow = [] →
    let va := padAddress tm a 0
    (∀ l ∈ tm.parts, va l < b.spBytes) →
    ∃ s' tm', exec (.pres k a z) s = .next s' ∧ s'.team? c t = some tm' ∧ Advanced tm tm' z ∧
      (∀ l j, tm'.flag l j = if l ∈ tm.parts ∧ j = k then !b.absent.contains (va l / 128) else tm.flag l j) ∧
      SameRegs tm tm' ∧ SameLatches tm tm' ∧ tm'.rest = tm.rest ∧ OnlyTeam s s' c t

/-- R152 to R155: ACNT sets a counter. WAIT goes on once its counter has reached the threshold and no fault entry counts to it,
and parks before; WAITALL goes on with nothing outstanding and nothing failed. A fault entry is raised there, deferred; an overflow record waits for the clause's end (R122, R395). What a wait
covers may be read after it, but for helper lanes whose data has still to land (entry 4). -/
def Obligations.CountersAndWaits : Prop :=
  let imm (tm : Team) (i : BitVec 12) : Word := match tm.advs.findSome? fun x => match x with | .imm hi => some hi | _ => none with
    | some hi => hi ++ i
    | none => i.setWidth 32
  (∀ (ac : BitVec 4) (i : BitVec 12) (z : Bool), TeamWord (.acnt ac i z) z [] fun tm =>
    { tm with ac := PMap.set tm.ac ac.toNat ((imm tm i).setWidth 16) }) ∧
  (∀ s c t tm (ac : BitVec 4) (i : BitVec 12), Ready s c t tm (.wait ac i) true .no [] →
    let th := (imm tm i).toNat
    let mine := tm.faults.filter fun e => e.ac == ac.toNat
    (th ≤ tm.acv ac.toNat → mine = [] →
      ∃ s' tm', exec (.wait ac i) s = .next s' ∧ s'.team? c t = some tm' ∧ Advanced tm tm' true ∧ SameRegs tm tm' ∧
        SameFlags tm tm' ∧ { tm'.rest with unc := [] } = { tm.rest with unc := [] } ∧
        (∀ u ∈ tm.unc, ¬(u.ac = ac.toNat ∧ tm.counted u.pass = true) → u ∈ tm'.unc) ∧
        (∀ u ∈ tm'.unc, (u ∈ tm.unc ∧ ¬(u.ac = ac.toNat ∧ tm.counted u.pass = true)) ∨ ∃ v ∈ tm.unc, v.ac = ac.toNat ∧
          tm.counted v.pass = true ∧ tm.landing v.pass ≠ 0 ∧ u = { v with lanes := tm.landing v.pass }) ∧ OnlyTeam s s' c t) ∧
    (th ≤ tm.acv ac.toNat → ∀ e r, mine = e :: r → ∃ n, tm.faults[n]? = some e ∧
      TrapsFrom s c t tm { e.trap .deferred false with entry := some n } (exec (.wait ac i) s)) ∧
    (tm.acv ac.toNat < th → NothingDue s c tm →
      ∃ s' tm', exec (.wait ac i) s = .next s' ∧ s'.team? c t = some tm' ∧ Parked tm tm' ⟨.counter, ac.toNat, th⟩ ∧
        OnlyTeam s s' c t)) ∧
  ∀ s c t tm, Ready s c t tm .waitall true .no [] →
    (s.allDone c t tm = true → tm.faults = [] → tm.bad = [] →
      ∃ s' tm', exec .waitall s = .next s' ∧ s'.team? c t = some tm' ∧ Advanced tm tm' true ∧ SameRegs tm tm' ∧
        SameFlags tm tm' ∧ { tm'.rest with unc := [] } = { tm.rest with unc := [] } ∧ OnlyTeam s s' c t) ∧
    (s.allDone c t tm = true → ∀ e r, tm.faults = e :: r →
      TrapsFrom s c t tm { e.trap .deferred false with entry := some 0 } (exec .waitall s)) ∧
    (s.allDone c t tm = false → NothingDue s c tm →
      ∃ s' tm', exec .waitall s = .next s' ∧ s'.team? c t = some tm' ∧ Parked tm tm' ⟨.all, 0, 0⟩ ∧ OnlyTeam s s' c t)

/-! Stores, atomics, FENCE and COLL (R296 to R325). -/

/-- R301, R302, R305: a store whose every lane is translated queues one entry for each warp, with each active lane's physical
address and the low bytes of its data, as a release for Q = 1 or ORD release. R302: misaligned and non-canonical lanes trap
first. R305, R320: with the queue full, or a FENCE in it, nothing happens yet; that a FENCE holds the word at issue, and that a store
of several warps queues none of its entries until all have room, is the model's reading (entries 31 and 32).
R157, R319, R320: FENCE clears the taint of every register and latch, keeps their values, and queues an entry that releases
and acquires at its scope; at DOMAIN and SYSTEM scope it ends the clause, and parks the team while stores to other devices are
unanswered. -/
def Obligations.StoresAndFences : Prop :=
  (∀ p ∈ ([(Instr.stB, .b), (.stH, .h), (.stW, .w), (.stD, .d), (.stQ, .q)] : List ((StF → Instr) × Size)), ∀ f : StF,
     ∀ s c t tm, Ready s c t tm (p.1 f) f.z .no [src1 f.a, srcN f.d (Size.regs p.2)] →
       let size := Size.bytes p.2
       let va := laneAddress tm f.a (f.off.toNat * size)
       let order := (scopeOrder tm).2
       let rel := if f.q = true ∨ order = .release ∨ order = .acqrel then some (scopeOrder tm).1 else none
       let aligned := ∀ l ∈ tm.active, va l % size = 0
       (tm.fenced = false → AddressTraps s c t tm size va true (exec (p.1 f) s)) ∧
       (∀ pa, aligned → Translated s c tm .write va pa → QueueOpen tm rel →
         ∃ s' tm', exec (p.1 f) s = .next s' ∧ s'.team? c t = some tm' ∧ tm'.atoms = tm.atoms ∧
           Queued s s' c t tm tm' f.z (tm.warps.map fun w =>
             { seq := tm.seq, rel := rel, acq := none, pc := tm.wordPc, p1 := tm.p1
               work := .store ((lanesIn tm w).map fun l => ⟨l, va l, pa l, lowBytes size (tm.readWide (Size.regs p.2) l f.d).toNat⟩) })) ∧
       (tm.fenced = true → exec (p.1 f) s = .next s) ∧
       (∀ pa, aligned → Translated s c tm .write va pa → tm.fenced = false → rel = none →
         Config.storeQueue < tm.sq.length + tm.warps.length → exec (p.1 f) s = .next s)) ∧
  (∀ s c t tm sc z, Ready s c t tm (.fence sc z) z .no [] →
     let wide := sc = .domain ∨ sc = .system
     (tm.atoms = [] → tm.bad = [] → tm.sq.length < Config.storeQueue →
       (wide → s.teamRemoteQuiet c t tm = true ∧ tm.failed = []) →
       ∃ s' tm', exec (.fence sc z) s = .next s' ∧ s'.team? c t = some tm' ∧ Advanced tm tm' (z || decide wide) ∧
         tm'.sq = tm.sq ++ [⟨tm.seq, .fence sc, some sc, some sc, tm.wordPc, tm.p1⟩] ∧ tm'.seq = tm.seq + 1 ∧
         SameValues tm tm' (List.range tm.size) ∧ SameFlags tm tm' ∧
         (∀ k x, PMap.get? tm'.v k = some x → x.taint = false) ∧ (∀ k x, PMap.get? tm'.u k = some x → x.taint = 0) ∧
         (∀ l e, e < 8 → tm'.latch l e = ⟨(tm.latch l e).val, false⟩) ∧ OnlyTeam s s' c t) ∧
     (wide → s.teamRemoteQuiet c t tm = false → NothingDue s c tm →
       ∃ s' tm', exec (.fence sc z) s = .next s' ∧ s'.team? c t = some tm' ∧ Parked tm tm' ⟨.fence, 0, 0⟩ ∧ OnlyTeam s s' c t))

/-- R308 to R316: ATOM, ARED and CAS128 queue one entry for each warp, with their operands, scope and order; ATOM and CAS128 then
owe a result to their destination, tainted in the lanes that read a tainted source (R157). R310: misaligned and non-canonical lanes trap first. That a FENCE
in the queue holds the word at issue, and that every warp's entry is queued in one step, is the model's reading (entries 31 and
32). -/
def Obligations.AtomicsQueue : Prop :=
  let queues (i : Instr) (z : Bool) (us : List Use) (a : Opd) (size : Nat) (work : AtomWork) (ret : Option (Opd × Nat))
      (y cmp : Team → Nat → BitVec 128) (taint : Team → Nat → Bool) : Prop :=
    ∀ s c t tm, Ready s c t tm i z .no us →
      let va := laneAddress tm a 0
      let order := (scopeOrder tm).2
      let rel := if order = .release ∨ order = .acqrel then some (scopeOrder tm).1 else none
      let acq := if order = .acquire ∨ order = .acqrel then some (scopeOrder tm).1 else none
      (tm.fenced = false → AddressTraps s c t tm size va true (exec i s)) ∧
      (tm.fenced = true → exec i s = .next s) ∧
      ∀ pa, (∀ l ∈ tm.active, va l % size = 0) → Translated s c tm .atomic va pa → QueueOpen tm rel →
        ∃ s' tm', ∃ ids : Nat → Nat, exec i s = .next s' ∧ s'.team? c t = some tm' ∧
          Queued s s' c t tm tm' z (tm.warps.map fun w =>
            { seq := tm.seq, rel := rel, acq := acq, pc := tm.wordPc, p1 := tm.p1
              work := .atomic (ids w) work ret.isSome ((lanesIn tm w).map fun l => ⟨l, va l, pa l, y tm l, cmp tm l⟩) }) ∧
          tm'.atoms = tm.atoms ++ match ret with
            | some (d, regs) => tm.warps.map fun w => ⟨ids w, tm.seq, tm.wordPc, tm.dest d, regs, lanesIn tm w, [], [], (lanesIn tm w).filter (taint tm), acq, tm.p1⟩
            | none => []
  let wide (w : Bool) (o : Opd) (tm : Team) (l : Nat) : BitVec 128 := (tm.read w l o).val.setWidth 128
  (∀ (f : ABW) op, queues (.atom f op) f.z
    ([src1 f.a, srcP f.b f.w, dstP f.d f.w] ++ (if op = .cas then [srcP f.d f.w] else [])) f.a (if f.w then 8 else 4)
    (.op op f.w) (some (f.d, if f.w then 2 else 1)) (wide f.w f.b) (wide f.w f.d)
    fun tm l => (tm.read false l f.a).taint || (tm.read f.w l f.b).taint || (op == .cas && (tm.read f.w l f.d).taint)) ∧
  (∀ p ∈ ([(.add, .add), (.min, .min), (.max, .max), (.and, .and), (.or, .or), (.xor, .xor)] : List (AredOp × AtomOp)), ∀ a b w z,
    queues (.ared a b p.1 w z) z [src1 a, srcP b w] a (if w then 8 else 4) (.op p.2 w) none (wide w b) (fun _ _ => 0) fun _ _ => false) ∧
  ∀ d a b z, queues (.cas128 d a b z) z [src1 a, srcN b 4, dstN d 4, srcN d 4] a 16 .cas128 (some (d, 4))
    (fun tm l => tm.readWide 4 l b) (fun tm l => tm.readWide 4 l d)
    fun tm l => (tm.read false l a).taint || tm.wideTaint 4 l b || tm.wideTaint 4 l d

/-- R305, R306: STORE_QUEUE_ENTRY_LEAVES puts the oldest store, once every earlier load of the team has been performed, into the
core's order, the highest lane's byte for each address; HOME_SLICE_REQUEST applies a local store of that order, where no earlier
one is of its sector, at its home: its bytes in main memory, and no other byte. R320, R374: a FENCE's entry leaves and drops the
L1 at a scope above CORE; an arrival's leaving is counted at its barrier. -/
def Obligations.StoresReachMemory : Prop :=
  (∀ (s : State) (c t : Nat) (tm : Team) (e : SqEntry) (r : List SqEntry), t < 16 → s.team? c t = some tm → tm.sq = e :: r → tm.status = .live →
    (tm.loadsDone e.seq = false → exec (.storeQueueEntryLeaves c t) s = .next s) ∧
    (tm.loadsDone e.seq = true → s.noRemoteAtom c t = true → (∀ sc, e.rel = some sc → s.releaseOk c sc = true) →
      (∀ ls, e.work = .store ls → e.acq = none → (∀ x ∈ ls, x.pa < 2 ^ 55 ∧ x.pa % 64 + x.bytes.length ≤ 64) →
        ∃ s' tm' ws, exec (.storeQueueEntryLeaves c t) s = .next s' ∧ s'.team? c t = some tm' ∧ tm'.sq = r ∧
          (s'.core c).order = (s.core c).order ++ ws ∧ (∀ a, a < 2 ^ 55 → pendingByte s ws a = laneByte ls a) ∧
          SameRegs tm tm' ∧ OthersStay s s' c t) ∧
      (∀ sc, e.work = .fence sc → e.acq = some sc →
        ∃ s' tm', exec (.storeQueueEntryLeaves c t) s = .next s' ∧ s'.team? c t = some tm' ∧ tm'.sq = r ∧ SameRegs tm tm' ∧
          (s'.core c).l1 = (if sc = .core then (s.core c).l1 else []) ∧ OthersStay s s' c t) ∧
      (∀ nb b x, e.work = .barrier nb → e.acq = none → s.block? c = some b → PMap.get? b.bars nb = some x → x.scope ≠ .grid →
        ∃ s' tm' b', exec (.storeQueueEntryLeaves c t) s = .next s' ∧ s'.team? c t = some tm' ∧ tm'.sq = r ∧
          s'.block? c = some b' ∧ PMap.get? b'.bars nb = some (if x.arrived + 1 < x.count then { x with arrived := x.arrived + 1 }
            else { x with arrived := 0, phase := x.phase + 1 }) ∧
          (∀ k, k ≠ nb → PMap.get? b'.bars k = PMap.get? b.bars k) ∧ SameRegs tm tm' ∧ OthersStay s s' c t))) ∧
  ∀ (s : State) (c k : Nat) (w : HomeWrite) (sec : Nat), (s.core c).order[k]? = some w → s.localSector w = some sec →
    (∀ x ∈ (s.core c).order.take k, x.sector ≠ w.sector ∧ s.localSector x ≠ some sec) → (w.bytes.map (·.1)).Nodup →
    (∀ y ∈ w.bytes, y.1 < 64) →
    ∃ s', exec (.homeSliceRequest c k) s = .next s' ∧ (s'.core c).order = (s.core c).order.take k ++ (s.core c).order.drop (k + 1) ∧
      (∀ a, s'.homeByte a = if a / 64 = sec then (PMap.get? w.bytes (a % 64)).getD (s.homeByte a) else s.homeByte a) ∧
      ∀ q, (PMap.get? s'.teams q).map Team.asleep = (PMap.get? s.teams q).map Team.asleep

/-- R310, R315, Table 16.4: an atomic's entry of one local lane, leaving, is one read-modify-write of main memory, where its sector is sound at its home; ATOM_REPLY
writes the old value in the lane's destination. R317: a held line recalled goes back, and changes no byte. -/
def Obligations.AtomicsAtMemory : Prop :=
  (∀ (s : State) (c t id : Nat) (tm : Team) (e : SqEntry) (r : List SqEntry) (w : AtomWork) (ret : Bool) (x : AtomLane) (a : Nat),
    t < 16 → s.team? c t = some tm → tm.sq = e :: r → tm.status = .live → e.work = .atomic id w ret [x] → tm.loadsDone e.seq = true →
    s.noRemoteAtom c t = true → (∀ sc, e.rel = some sc → s.releaseOk c sc = true) → (s.core c).order = [] →
    s.route x.pa = .local_ a → s.poisoned (a / 64) = false → (s.l2Has (a / 64) = true ∨ s.ecc = []) →
    let n := match w with
      | .op _ wide => if wide then 8 else 4
      | .cas128 => 16
    let old := s.homeNat a n
    let new : Option Nat := match w with
      | .op op wide => atomTable (if wide then 64 else 32) op old x.y.toNat x.cmp.toNat
      | .cas128 => if old = x.cmp.toNat then some x.y.toNat else none
    ∃ s' tm', exec (.storeQueueEntryLeaves c t) s = .next s' ∧ s'.team? c t = some tm' ∧ tm'.sq = r ∧ SameRegs tm tm' ∧
      (∀ b, s'.homeByte b = match new with
        | some v => if a ≤ b ∧ b < a + n then BitVec.ofNat 8 (v / 2 ^ (8 * (b - a))) else s.homeByte b
        | none => s.homeByte b) ∧
      tm'.atoms = (if ret then tm.atoms.map fun k => if k.id = id then { k with got := k.got ++ [(x.lane, BitVec.ofNat 128 old)] } else k
        else tm.atoms) ∧
      ∀ k, k ≠ 16 * c + t → (PMap.get? s'.teams k).map Team.asleep = (PMap.get? s.teams k).map Team.asleep) ∧
  (∀ (s : State) (c t id : Nat) (tm : Team) (k : AtomRes) (d : Nat), s.team? c t = some tm → tm.status = .live →
    tm.atoms.find? (fun q => q.id == id) = some k → k.dest = .lane d → d + k.regs ≤ 1024 → k.bad = [] → (k.got.map (·.1)).Nodup →
    (∀ l ∈ k.lanes, ∃ v, (l, v) ∈ k.got) →
    ∃ s' tm', exec (.atomReply c t id) s = .next s' ∧ s'.team? c t = some tm' ∧ tm'.atoms = tm.atoms.filter (·.id != id) ∧
      (∀ l r, r < 1024 → (¬(d ≤ r ∧ r < d + k.regs) ∨ l ∉ k.got.map (·.1)) → tm'.laneHeld l r = tm.laneHeld l r) ∧
      (∀ l v r, (l, v) ∈ k.got → d ≤ r → r < d + k.regs → tm'.laneHeld l r = ⟨wordOf v.toNat (r - d), decide (l ∈ k.tainted)⟩) ∧
      (∀ r, tm'.uniHeld r = tm.uniHeld r) ∧ SameFlags tm tm' ∧ SameLatches tm tm' ∧ tm'.pc = tm.pc ∧ OthersStay s s' c t) ∧
  ∀ (s : State) (c line : Nat), ∃ s', exec (.atomicLineRecall c line) s = .next s' ∧ PMap.get? (s'.core c).held line = none ∧
    (∀ a, s'.homeByte a = s.homeByte a) ∧ s'.teams = s.teams ∧ s'.blocks = s.blocks

/-- R322, R323: COLL takes its descriptor from seven uniform registers; a reserved bit raises Illegal Instruction, a group that is
not registered here, not ready or of another context raises Permission. Else, in turn, with the accesses before it performed, it
sends its contribution in the group's round, counts the round up and goes on, owing a result; COLL_RECORD writes, of a complete
round, the result over the pieces of DST, then the record of 16 bytes, and adds one to the counter; once the two timeouts are past it
changes nothing, and COLL_RECORD_TIMEOUT writes a record of its own. That the word waits for the team's earlier accesses and sends in one step is the
model's reading (entry 33). -/
def Obligations.CollectiveWords : Prop :=
  (∀ p ∈ ([(Instr.collAdd, .add), (.collMin, .min), (.collMax, .max)] : List ((Opd → Bool → Instr) × AredOp)), ∀ a z,
    ∀ s c t tm, Ready s c t tm (p.1 a z) z .no [srcN a 7] → tm.fenced = false →
      let d := tm.collDesc a
      (2 ^ 16 ≤ tm.descWord a 0 → TrapsFrom s c t tm { cause := .illegalInstruction, kind := .precise } (exec (p.1 a z) s)) ∧
      (tm.descWord a 0 < 2 ^ 16 → (∀ g, PMap.get? s.groups d.group = some g → g.ctx ≠ s.ctxOf c ∨ g.ready = false) →
        TrapsFrom s c t tm { cause := .permission, kind := .precise } (exec (p.1 a z) s)) ∧
      ∀ s1 g src dst rc, s.collChecks c tm a = (s1, .ok (g, src, dst, rc)) → s1.forkReady c t tm = true →
        tm.colls.length < Config.colls → (wideScope (tm.relOf false) = true → s1.teamRemoteQuiet c t tm = true ∧ tm.failed = []) →
        (∀ sc, tm.relOf false = some sc → s1.releaseOk c sc = true) →
        ∃ s' tm' k, exec (p.1 a z) s = .next s' ∧ s'.team? c t = some tm' ∧ Advanced tm tm' z ∧ SameRegs tm tm' ∧
          SameFlags tm tm' ∧ tm'.colls = tm.colls ++ [k] ∧ k.group = d.group ∧ k.round = g.round ∧ k.ac = d.ac ∧ k.dst = dst ∧
          k.bytes = g.size ∧ tm'.seq = tm.seq + 1 ∧
          s'.outbox = s.outbox ++ [.coll d.group g.round p.2 (s1.readRuns c src).2] ∧
          (∀ q, PMap.get? s.groups d.group = some q → PMap.get? s'.groups d.group = some { q with round := (g.round + 1) % 2 ^ 32 }) ∧
          ∀ b, s'.homeByte b = s.homeByte b) ∧
  (∀ (s : State) (c t id : Nat) (tm : Team) (k : CollOp) (ans : CollAns), s.team? c t = some tm → tm.status = .live →
    tm.colls.find? (fun q => q.id == id) = some k → (∀ q ∈ tm.colls, q.id = id → q = k) →
    let due := k.at_ + (s.groupTimeout + s.remoteTimeout) * Config.cyclesPerTenth
    (due ≤ s.cycle → exec (.collRecord c t id ans) s = .next s) ∧ (s.cycle < due →
    (∀ q ∈ k.dst, ans.complete = true → s.route q.1 = .local_ q.1 ∧ q.1 + q.2 ≤ 2 ^ 55) → s.route k.rec_ = .local_ k.rec_ → k.rec_ % 16 = 0 →
    let record := collRecord (if ans.complete then 0 else 1) k.round (if ans.complete then 0 else ans.missing.toNat)
    ∃ s' tm', exec (.collRecord c t id ans) s = .next s' ∧ s'.team? c t = some tm' ∧
      tm'.acv k.ac = min (tm.acv k.ac + 1) 65535 ∧ tm'.colls = tm.colls.filter (·.id != id) ∧
      ∀ a, s'.homeByte a = if k.rec_ ≤ a ∧ a < k.rec_ + 16 then record.getD (a - k.rec_) 0
        else ((if ans.complete then spreadByte k.dst ans.result a else none).getD (s.homeByte a)))) ∧
  ∀ (s : State) (c t id : Nat) (tm : Team) (k : CollOp), s.team? c t = some tm → tm.status = .live →
    tm.colls.find? (fun q => q.id == id) = some k → s.route k.rec_ = .local_ k.rec_ → k.rec_ % 16 = 0 →
    let due := k.at_ + (s.groupTimeout + s.remoteTimeout) * Config.cyclesPerTenth
    ((∀ q ∈ tm.colls, q.id = id → q = k) → s.cycle < due → exec (.collRecordTimeout c t id) s = .next s) ∧
    (due ≤ s.cycle → ∃ s' tm', exec (.collRecordTimeout c t id) s = .next s' ∧ s'.team? c t = some tm' ∧
      tm'.acv k.ac = min (tm.acv k.ac + 1) 65535 ∧
      ∀ a, s'.homeByte a = if k.rec_ ≤ a ∧ a < k.rec_ + 16 then (collRecord 1 k.round (2 ^ 64 - 1)).getD (a - k.rec_) 0
        else s.homeByte a)

/-! Copies and sharing groups (R134 to R139, R162 to R178). -/

/-- R162 to R165: a copy that its checks let pass joins the core's copies with its descriptor: with a place free it takes one and
the team goes on; else its word stays at issue until COPY_QUEUE_ADMIT gives it the place, in its datapath's place among the passes
of the cycle and behind those so far (R414, R135), in a block that is to stop too (R406), and then goes on. A rejected
descriptor raises Illegal Instruction. -/
def Obligations.CopyWords : Prop :=
  (∀ p ∈ ([(Instr.tcopy, .tcopy, 14), (.tfill, .tfill, 14), (.tgath, .tgath, 12), (.tscat, .tscat, 12)] :
      List ((Opd → Bool → Instr) × CopyKind × Nat)), ∀ a z,
    ∀ s c t tm b, Ready s c t tm (p.1 a z) z .no [srcN a p.2.2] → tm.fenced = false → s.block? c = some b →
      let free := (b.copies.filter (·.admitted)).length < Config.copies
      let desc := (List.range p.2.2).map fun i => BitVec.ofNat 32 (tm.descWord a i)
      let x := tm.copyOf t p.2.1 a (s.fresh + 1) (decide free) (s.serialsOf c)
      x.desc = desc ∧ x.kind = p.2.1 ∧ x.seq = tm.seq ∧ x.started = false ∧ x.done = [] ∧ x.p1 = tm.p1 ∧
      (tm.second = false → x.rejected = true →
        TrapsFrom s c t tm { cause := .illegalInstruction, kind := .precise } (exec (p.1 a z) s)) ∧
      (tm.second = false → s.copyTrap c x = none →
        ∃ s' tm' b', exec (p.1 a z) s = .next s' ∧ s'.team? c t = some tm' ∧ s'.block? c = some b' ∧
          b'.copies = b.copies ++ [x] ∧ tm'.seq = tm.seq + 1 ∧ SameRegs tm tm' ∧ SameFlags tm tm' ∧ SameLatches tm tm' ∧
          (∀ o, b'.spad? o = b.spad? o) ∧ (∀ o, b'.acc? o = b.acc? o) ∧ b'.bars = b.bars ∧
          (if free then Advanced tm tm' z else tm'.pc = tm.pc ∧ tm'.second = true) ∧
          (∀ q, s'.homeByte q = s.homeByte q) ∧ ∀ k, k ≠ 16 * c + t → PMap.get? s'.teams k = PMap.get? s.teams k) ∧
      (tm.second = true → (∀ y ∈ b.copies, y.team = t → y.admitted = true ∨ y.counts = false) →
        ∃ s' tm', exec (p.1 a z) s = .next s' ∧ s'.team? c t = some tm' ∧ Advanced tm tm' z ∧ SameRegs tm tm' ∧
          OnlyTeam s s' c t)) ∧
  ∀ (s : State) (c : Nat) (b : Block) (x : Copy), s.block? c = some b → b.copies.find? (fun y => !y.admitted) = some x →
    let full := Config.copies ≤ (b.copies.filter (·.admitted)).length
    let late := x.counts = true ∧ 4 * s.cycle + x.team % 4 < (s.core c).slot
    (full ∨ late → exec (.copyQueueAdmit c) s = .next s) ∧
    (¬full → ¬late → ∃ s' b', exec (.copyQueueAdmit c) s = .next s' ∧ s'.block? c = some b' ∧
      b'.copies = (b.copies.map fun y => if y.id = x.id then { y with admitted := true, id := s.fresh + 1 } else y) ∧
      (∀ q, s'.homeByte q = s.homeByte q) ∧ s'.teams = s.teams)

/-- R166 to R169, R174: COPY_START lets a copy with a place begin once the accesses that come before it have been performed, the
stores among them where the copy's accesses are, in no block that is to stop; COPY_INDEX_BATCH reads up to
eight index entries, here from the own scratchpad; COPY_ROW_ARRIVES writes a whole row to the own scratchpad, the next to issue or
one that has issued, byte after byte: the fill word, zeros for an index out of range, or the source bytes of the own scratchpad or
of a local page; nothing for a row of TSCAT out of range; it counts one, and keeps every other byte. That a row is translated, read
and written in one step is the model's choice (entry 23). -/
def Obligations.CopyRowsArrive : Prop :=
  (∀ (s : State) (c id : Nat) (x : Copy), s.copy? c id = some x → x.admitted = true →
    (s.halting c = true ∨ s.forkPast c x = false ∨ s.forked c x = false ∨ s.windowClear c x = false →
      exec (.copyStart c id) s = .next s) ∧
    (s.halting c = false → s.forkPast c x = true → s.forked c x = true → s.windowClear c x = true →
      ∃ s', exec (.copyStart c id) s = .next s' ∧ s'.copy? c id = some { x with started := true } ∧ s'.teams = s.teams ∧
        ∀ q, s'.homeByte q = s.homeByte q)) ∧
  (∀ (s : State) (c id : Nat) (b : Block) (x : Copy), s.block? c = some b → s.copy? c id = some x → x.strided = false →
    x.admitted = true → x.started = true → 8 * x.batch < x.rows → x.iwait = 0 → x.failed = [] → x.isp = true → b.stopping = false →
    b.upSp = [] →
    let n := min 8 (x.rows - 8 * x.batch)
    let at_ := x.idxBase + 32 * x.batch
    at_ + 4 * n ≤ 2 ^ 31 →
    ∃ s' x', exec (.copyIndexBatch c id) s = .next s' ∧ s'.copy? c id = some x' ∧ x'.batch = x.batch + 1 ∧
      (∀ k, k < n → PMap.get? x'.idx (8 * x.batch + k) = some (BitVec.ofNat 32 (leNat (b.spadBytes (at_ + 4 * k) 4)))) ∧
      (∀ k, k < 8 * x.batch → PMap.get? x'.idx k = PMap.get? x.idx k) ∧ s'.teams = s.teams ∧
      ∀ q, s'.homeByte q = s.homeByte q) ∧
  ∀ (s : State) (c id r : Nat) (b : Block) (x : Copy) (tm : Team) (a : Nat), s.block? c = some b → s.copy? c id = some x →
    s.team? c x.team = some tm → x.flight = [] → x.failed = [] →
    r < x.issued ∨ (r = x.issued ∧ s.mayIssue c x = true ∧ s.rowShut c x r = none) →
    s.rowReady c { x with issued := max x.issued (r + 1) } r = true →
    x.rowLen ≤ 2 ^ 20 → x.dsp = true → x.dstAt r < 2 ^ 31 → (∀ o, o < x.rowLen → x.dstByte r o < 2 ^ 31) →
    (x.swz ≠ 0 → x.dstAt r % 128 = 0 ∧ x.srcAt r % 128 = 0) →
    let own := x.ssp = true ∧ b.upSp = [] ∧ x.srcAt r < 2 ^ 31 ∧ ∀ o, o < x.rowLen → x.srcByte r o < 2 ^ 31
    let page := x.ssp = false ∧ x.srcAt r % 2 ^ 16 + x.rowLen ≤ 2 ^ 16 ∧ 0 < x.rowLen ∧
      (∀ o, o < x.rowLen → (a + o) / 64 ∉ s.poison) ∧ s.ecc = [] ∧
      ∃ e pa, s.tlbHit c (s.ctxOf c) (x.srcAt r) = some e ∧ s.leafAccess e (x.srcAt r) .read x.p1 = .ok pa ∧ s.route pa = .local_ a
    let fill := x.kind = .tfill
    x.id = id → (fill ∨ x.outOfRange r = true ∨ own ∨ page) →
    let data (m : Nat → Byte) (o : Nat) : Byte :=
      if fill then BitVec.ofNat 8 (x.num 0 / 2 ^ (8 * (o % 4))) else if x.outOfRange r then 0
      else if x.ssp then m (x.srcByte r o) else s.homeByte (a + o)
    let row : List Nat := if x.silent r then [] else List.range x.rowLen
    let pad := row.foldl (fun m o q => if q = x.dstByte r o then data m o else m q) b.spad?
    ∃ s' b' tm', exec (.copyRowArrives c id r) s = .next s' ∧ s'.block? c = some b' ∧ s'.team? c x.team = some tm' ∧
      (∀ q, b'.spad? q = pad q) ∧ (∀ q, b'.acc? q = b.acc? q) ∧
      tm'.acv x.ac = (if x.counts then min (tm.acv x.ac + 1) 65535 else tm.acv x.ac) ∧
      tm'.cestat = (if x.outOfRange r then tm.cestat ||| 1 else tm.cestat) ∧ SameRegs tm tm' ∧ SameFlags tm tm' ∧
      OthersStay s s' c x.team

/-- R138, R139, R176 to R178: SGJOIN makes the block a member of its group; SGMAP sets the slot mask to the named members; SGLEAVE
of a block in no group does nothing, else it revokes the slot and, with no window access to it outstanding, takes the block out;
the group ends with the last block that belongs to it.
Reserved bits raise Illegal Instruction, a join or a mask that is not allowed Permission, a mask with a revoked slot Group
Revoked. -/
def Obligations.SharingGroups : Prop :=
  ∀ (s : State) (c t : Nat) (tm : Team) (b : Block) (a : Opd) (z : Bool), s.block? c = some b →
    let slot := c % 12
    let q := c / 12
    let w := tm.descWord a 0
    let mine : BitVec 12 := BitVec.ofNat 12 (2 ^ slot)
    let group := b.group.bind (PMap.get? s.sgroups ·)
    let denied : Trap := { cause := .permission, kind := .precise, addr := w, xfault := 128 }
    let illegal : Trap := { cause := .illegalInstruction, kind := .precise }
    (Ready s c t tm (.sgjoin a z) z .no [src1 a] →
      let key := groupKey b.ctx q (w / 2 ^ 12 % 256)
      let allowed := w.testBit slot = true ∧ b.group = none ∧
        (∀ k, k < 12 → w.testBit k = true → ∃ e, PMap.get? s.part (12 * q + k) = some e ∧ e.getLsbD 15 = true ∧ e.toNat % 256 = b.ctx) ∧
        ∀ g, PMap.get? s.sgroups key = some g → g.set = BitVec.ofNat 12 w
      (2 ^ 20 ≤ w → TrapsFrom s c t tm illegal (exec (.sgjoin a z) s)) ∧
      (w < 2 ^ 20 → ¬allowed → TrapsFrom s c t tm denied (exec (.sgjoin a z) s)) ∧
      (w < 2 ^ 20 → allowed →
        ∃ s' tm' b' g', exec (.sgjoin a z) s = .next s' ∧ s'.team? c t = some tm' ∧ Advanced tm tm' z ∧ s'.block? c = some b' ∧
          b'.group = some key ∧ PMap.get? s'.sgroups key = some g' ∧ g'.set = BitVec.ofNat 12 w ∧
          g'.joined = ((PMap.get? s.sgroups key).map (·.joined)).getD 0 ||| mine ∧ g'.revoked &&& mine = 0 ∧
          SameRegs tm tm' ∧ SameFlags tm tm' ∧ tm'.rest = tm.rest ∧ ∀ k, s'.homeByte k = s.homeByte k)) ∧
    (Ready s c t tm (.sgmap a z) z .no [src1 a] →
      (2 ^ 12 ≤ w → TrapsFrom s c t tm illegal (exec (.sgmap a z) s)) ∧
      (w < 2 ^ 12 → group = none → TrapsFrom s c t tm denied (exec (.sgmap a z) s)) ∧
      (w < 2 ^ 12 → ∀ g, group = some g →
        (BitVec.ofNat 12 w &&& g.revoked = 0 →
          ∃ s' tm', exec (.sgmap a z) s = .next s' ∧ s'.team? c t = some tm' ∧ Advanced tm tm' z ∧
            tm'.sgmask = BitVec.ofNat 12 w &&& g.joined ∧ SameRegs tm tm' ∧ SameFlags tm tm' ∧
            { tm'.rest with sgmask := 0 } = { tm.rest with sgmask := 0 } ∧ OnlyTeam s s' c t) ∧
        ∀ k, k < 12 → w.testBit k = true → g.revoked.getLsbD k = true →
          (∀ j, j < k → ¬(w.testBit j = true ∧ g.revoked.getLsbD j = true)) →
          TrapsFrom s c t tm { cause := .groupRevoked, kind := .precise, addr := 2 ^ 31 + k * 2 ^ 22 } (exec (.sgmap a z) s))) ∧
    (Ready s c t tm (.sgleave z) z .no [] →
      (b.group = none →
        ∃ s' tm', exec (.sgleave z) s = .next s' ∧ s'.team? c t = some tm' ∧ Advanced tm tm' z ∧ SameRegs tm tm' ∧
          OnlyTeam s s' c t) ∧
      ∀ key g, b.group = some key → PMap.get? s.sgroups key = some g → tm.second = false →
        (s.leaveReady c = true →
          ∃ s' tm' b', exec (.sgleave z) s = .next s' ∧ s'.team? c t = some tm' ∧ Advanced tm tm' z ∧ s'.block? c = some b' ∧
            b'.group = none ∧ SameRegs tm tm' ∧
            PMap.get? s'.sgroups key = (if (s.blocks.any fun p => p.1 != c && p.2.group == some key) = false then none
              else some { g with joined := g.joined &&& ~~~mine, revoked := g.revoked ||| mine })) ∧
        (s.leaveReady c = false →
          ∃ s' tm', exec (.sgleave z) s = .next s' ∧ s'.team? c t = some tm' ∧ tm'.pc = tm.pc ∧ tm'.second = true ∧
            SameRegs tm tm' ∧
            PMap.get? s'.sgroups key = some { g with joined := g.joined &&& ~~~mine, revoked := g.revoked ||| mine }))

/-! The matrix sequencer and its engine (R250 to R295). -/

/-- R254 to R256, R268, R269: the scalar words write one register of the sequencer, and nothing else of the device changes. -/
def Obligations.MatrixScalars : Prop :=
  (∀ p ∈ ([(Instr.madd, fun x y => x + y), (.msub, fun x y => x - y), (.mmul, fun x y => x * y), (.mand, fun x y => x &&& y),
      (.mor, fun x y => x ||| y), (.mxor, fun x y => x ^^^ y), (.mshl, fun x y => BitVec.ofNat 32 (x.toNat * 2 ^ (y.toNat % 32))),
      (.mshr, fun x y => BitVec.ofNat 32 (x.toNat / 2 ^ (y.toNat % 32))), (.mmin, fun x y => if x.toInt ≤ y.toInt then x else y),
      (.mmax, fun x y => if x.toInt ≤ y.toInt then y else x)] : List ((MOp → Instr) × (Word → Word → Word))), ∀ f : MOp,
    SeqWord (p.1 f) f.z fun q =>
      { q with m := PMap.set q.m f.d.toNat (p.2 (q.mreg f.a.toNat) (if f.i then f.b.setWidth 32 else q.mreg f.b.toNat)) }) ∧
  (∀ (d : BitVec 5) (imm : BitVec 12) (z : Bool),
    SeqWord (.mli d imm z) z (fun q => { q with m := PMap.set q.m d.toNat (imm.setWidth 32) }) ∧
    SeqWord (.mliM d imm z) z fun q =>
      let x := (q.mreg d.toNat).toNat
      { q with m := PMap.set q.m d.toNat (BitVec.ofNat 32 (x / 2 ^ 24 * 2 ^ 24 + imm.toNat * 2 ^ 12 + x % 2 ^ 12)) }) ∧
  (∀ (d : BitVec 5) (imm : BitVec 8) (z : Bool),
    SeqWord (.mliT d imm z) z fun q =>
      { q with m := PMap.set q.m d.toNat (BitVec.ofNat 32 (imm.toNat * 2 ^ 24 + (q.mreg d.toNat).toNat % 2 ^ 24)) }) ∧
  (∀ (d : BitVec 5) (a : BitVec 6) (src : MSrc) (z : Bool),
    SeqWord (.mmov d a src z) z fun q =>
      { q with m := PMap.set q.m d.toNat (match src with
        | .m => q.mreg a.toNat
        | .sd => q.sdreg a.toNat
        | .lc => (q.lcreg a.toNat).setWidth 32
        | .eng => if a = 0 then q.wbase else BitVec.ofNat 32 q.period) }) ∧
  (∀ (n : BitVec 3) (a : BitVec 5) (z : Bool),
    SeqWord (.msetsd n a z) z (fun q => { q with sd := PMap.set q.sd n.toNat (q.mreg a.toNat) })) ∧
  (∀ (a : BitVec 5) (z : Bool), SeqWord (.bfw a z) z (fun q => { q with wbase := q.mreg a.toNat })) ∧
  ∀ (p : BitVec 6) (z : Bool), SeqWord (.bfp p z) z (fun q => { q with period := p.toNat + 1 })

/-- R257, R258: MLOOP begins a loop of the words after it up to its offset, passes them over for a count of 0, and raises Illegal
Instruction for a count above 65,535, an offset of 0, a fifth level, a counter in use or an end beyond the enclosing loop's. The
word at a loop's end counts its counter down and goes back, or leaves the loop at 0. That the checks of the offset, the depth, the
counter and the enclosing end trap for a count of 0 too is the model's reading (entry 50).
R259, R260, R380: MBAR waits for the engine, then counts an arrival of the sequencer; MWAIT goes on with nothing pending; both
wait while the phase of a pending arrival is not complete, and raise Barrier Mismatch where it cannot complete, or where the
barrier does not count the sequencer. -/
def Obligations.MatrixLoopsAndBarriers : Prop :=
  ((∀ s c b (n : BitVec 2) (a : BitVec 5) (off : BitVec 10), SeqReady s c b (.mloop n a off false) →
     let count := (b.seq.mreg a.toNat).toNat
     let last := b.seq.pc + BitVec.ofNat 64 (4 * off.toNat)
     let fits := count ≤ 65535 ∧ off ≠ 0 ∧ b.seq.loops.length < 4 ∧ (∀ x ∈ b.seq.loops, x.ctr ≠ n.toNat) ∧
       ∀ x r, b.seq.loops = x :: r → last.toNat ≤ x.last.toNat
     (¬fits → SeqTraps s c b .illegalInstruction 0 0 (exec (.mloop n a off false) s)) ∧
     (fits → count ≠ 0 →
       ∃ s' b', exec (.mloop n a off false) s = .next s' ∧ s'.block? c = some b' ∧ OnlySeq s s' c b b' ∧
         b'.seq = { b.seq with lc := PMap.set b.seq.lc n.toNat (BitVec.ofNat 16 count)
                               loops := ⟨n.toNat, b.seq.pc + 4, last⟩ :: b.seq.loops, pc := b.seq.pc + 4, parked := false }) ∧
     (fits → count = 0 → (∀ x r, b.seq.loops = x :: r → x.last ≠ last) →
       ∃ s' b', exec (.mloop n a off false) s = .next s' ∧ s'.block? c = some b' ∧ OnlySeq s s' c b b' ∧
         b'.seq = { b.seq with pc := last + 4, parked := false })) ∧
   ∀ s c b (d : BitVec 5) (imm : BitVec 12) x r, SeqReady s c b (.mli d imm false) → b.seq.loops = x :: r → x.last = b.seq.pc →
     let left := b.seq.lcreg x.ctr - 1
     ∃ s' b', exec (.mli d imm false) s = .next s' ∧ s'.block? c = some b' ∧ OnlySeq s s' c b b' ∧
       b'.seq.mreg d.toNat = imm.setWidth 32 ∧
       (left ≠ 0 → b'.seq.pc = x.first ∧ b'.seq.loops = x :: r ∧ b'.seq.lc = PMap.set b.seq.lc x.ctr left) ∧
       (left = 0 → (∀ y q, r = y :: q → y.last ≠ b.seq.pc) →
         b'.seq.pc = b.seq.pc + 4 ∧ b'.seq.loops = r ∧ b'.seq.lc = PMap.set b.seq.lc x.ctr 0)) ∧
  (∀ (s : State) (c : Nat) (b : Block) (nb : BitVec 6) (z : Bool),
     let n := nb.toNat
     let after (q : Sequencer) : Sequencer :=
       if z then { q with last := true, loops := [], parked := false, ended := q.engine.isNone }
       else { q with pc := b.seq.pc + 4, parked := false }
     (∀ i ∈ [Instr.mbar nb z, .mwait nb z], SeqReady s c b i →
       ((∀ x, PMap.get? b.bars n = some x → x.scope ≠ .blockSeq) → SeqTraps s c b .barrierMismatch n 0 (exec i s)) ∧
       ∀ x, PMap.get? b.bars n = some x → x.scope = .blockSeq → PMap.get? b.seq.pend n = some x.phase →
         i = .mwait nb z ∨ b.seq.engine = none →
         (s.canComplete c n = true →
           ∃ s' b', exec i s = .next s' ∧ s'.block? c = some b' ∧ OnlySeq s s' c b b' ∧ b'.seq = { b.seq with parked := true }) ∧
         (s.canComplete c n = false → SeqTraps s c b .barrierMismatch n 0 (exec i s))) ∧
     ∀ x, PMap.get? b.bars n = some x → x.scope = .blockSeq →
       (SeqReady s c b (.mbar nb z) → b.seq.engine.isSome → exec (.mbar nb z) s = .next s) ∧
       (z = true ∨ NoLoopEnd b.seq → PMap.get? b.seq.pend n ≠ some x.phase →
         (SeqReady s c b (.mbar nb z) → b.seq.engine = none →
           ∃ s' b', exec (.mbar nb z) s = .next s' ∧ s'.block? c = some b' ∧
             b'.seq = after { b.seq with pend := PMap.set b.seq.pend n x.phase } ∧ { b' with seq := b.seq, bars := b.bars } = b ∧
             PMap.get? b'.bars n = some (if x.arrived + 1 < x.count then { x with arrived := x.arrived + 1 }
               else { x with arrived := 0, phase := x.phase + 1 }) ∧
             (∀ k, k ≠ n → PMap.get? b'.bars k = PMap.get? b.bars k) ∧ ∀ a, s'.homeByte a = s.homeByte a) ∧
         (SeqReady s c b (.mwait nb z) →
           ∃ s' b', exec (.mwait nb z) s = .next s' ∧ s'.block? c = some b' ∧ OnlySeq s s' c b b' ∧
             b'.seq = after { b.seq with pend := PMap.del b.seq.pend n })))

/-- R252, R271, R274: an engine word waits for the engine instruction before it; then its operands are captured and the engine
runs it, or it traps: MCOPY with a length of 0 or no multiple of 16 raises Illegal Instruction, an address that is no multiple of
16 raises Misaligned with it, and an extent beyond its storage raises Engine Bound. No byte changes before it completes, when all
that is left is performed in one step: the model's choice (entry 51).
R250, R252, R264 to R266, R274: ENGINE_INSTRUCTION_COMPLETE, once the instruction's cycles are over, performs it: MCOPY writes
the source bytes as they were; one stage of one vector writes to accumulator storage, for each element, the exact sum of its
group's products rounded once. No byte outside the instruction's outputs changes, the engine is free, and a stream whose last
word has executed ends. -/
def Obligations.EngineWords : Prop :=
  ((∀ s c b, ∀ p : Instr × Bool × (Block → Except EngBad EngineOp),
     (∃ f : BfF, p = (.bfs f, f.z, fun b => b.bfOp f [f.b.toNat]) ∨ p = (.bfch f, f.z, fun b => b.bfOp f (List.range f.b.toNat))) ∨
     (∃ d a e xf set z, p = (.bft d a e xf set z, z, fun b => b.bftOp d.toNat a.toNat e.toNat xf set)) ∨
     (∃ d a e dir z, p = (.mcopy d a e dir z, z, fun b => b.mcopyOp d.toNat a.toNat e.toNat dir)) ∨
     (∃ d a e f16 yf qc z, p = (.sscan d a e f16 yf qc z, z, fun b => b.sscanOp d.toNat a.toNat e.toNat f16 yf qc.toNat)) →
     SeqReady s c b p.1 →
     (b.seq.engine.isSome → exec p.1 s = .next s) ∧
     (b.seq.engine = none → p.2.1 = true ∨ NoLoopEnd b.seq →
       (∀ op, p.2.2 b = .ok op →
         ∃ s' b', exec p.1 s = .next s' ∧ s'.block? c = some b' ∧ OnlySeq s s' c b b' ∧
           let q := { b.seq with engine := some ⟨b.seq.pc, op, 0, op.issueDraw :: op.drawsFrom 0⟩ }
           b'.seq = if p.2.1 then { q with last := true, loops := [], parked := false } else { q with pc := b.seq.pc + 4, parked := false }) ∧
       ∀ e, p.2.2 b = .error e → SeqTraps s c b e.cause 0 e.addr (exec p.1 s))) ∧
   ∀ (b : Block) (d a n : Nat) (dir : MDir),
     let src := (b.seq.mreg a).toNat
     let dst := (b.seq.mreg d).toNat
     let len := (b.seq.mreg n).toNat
     let srcEnd := if dir = .sa ∨ dir = .ss then b.spBytes else b.accBytes
     let dstEnd := if dir = .as ∨ dir = .ss then b.spBytes else b.accBytes
     (len % 16 ≠ 0 ∨ len = 0 → b.mcopyOp d a n dir = .error ⟨.illegalInstruction, 0⟩) ∧
     (len % 16 = 0 → len ≠ 0 → src % 16 ≠ 0 → b.mcopyOp d a n dir = .error ⟨.misaligned, src⟩) ∧
     (len % 16 = 0 → len ≠ 0 → src % 16 = 0 → dst % 16 ≠ 0 → b.mcopyOp d a n dir = .error ⟨.misaligned, dst⟩) ∧
     (len % 16 = 0 → len ≠ 0 → src % 16 = 0 → dst % 16 = 0 →
       (src + len ≤ srcEnd → dst + len ≤ dstEnd → b.mcopyOp d a n dir = .ok (.mcopy dir src dst len)) ∧
       (srcEnd < src + len → dst + len ≤ dstEnd → b.mcopyOp d a n dir = .error ⟨.engineBound, max src srcEnd⟩) ∧
       (src + len ≤ srcEnd → dstEnd < dst + len → b.mcopyOp d a n dir = .error ⟨.engineBound, max dst dstEnd⟩) ∧
       (srcEnd < src + len → dstEnd < dst + len →
         b.mcopyOp d a n dir = .error ⟨.engineBound, min (max src srcEnd) (max dst dstEnd)⟩))) ∧
  (∀ (s : State) (c : Nat) (b : Block) (e : Engine), s.block? c = some b → b.seq.engine = some e →
     (e.draws ≠ [] → exec (.engineInstructionComplete c) s = .next s) ∧
     (e.draws = [] → e.op.upset b = false →
       ∃ s' b', exec (.engineInstructionComplete c) s = .next s' ∧ s'.block? c = some b' ∧
         b'.seq = { b.seq with engine := none, ended := b.seq.ended || b.seq.last } ∧
         (∀ o, e.op.spares false o → b'.spad? o = b.spad? o) ∧ (∀ o, e.op.spares true o → b'.acc? o = b.acc? o) ∧
         b'.bars = b.bars ∧ b'.copies = b.copies ∧ (∀ a, s'.homeByte a = s.homeByte a) ∧
         (∀ k, (PMap.get? s'.teams k).map Team.asleep = (PMap.get? s.teams k).map Team.asleep) ∧
         (e.next = 0 →
           (∀ dir src dst len, e.op = .mcopy dir src dst len → ∀ o, o < len →
             let from_ := if dir = .sa ∨ dir = .ss then b.spad? (src + o) else b.acc? (src + o)
             if dir = .as ∨ dir = .ss then b'.spad? (dst + o) = from_ else b'.acc? (dst + o) = from_) ∧
           ∀ n st src sp dst dp w xf r, e.op = .bf n 1 [st] src sp dst dp w xf .acc r → ∀ i, i < n →
             let group := i / (st.radix * st.stride) * st.stride + i % st.stride
             let base := i / (st.radix * st.stride) * (st.radix * st.stride) + i % st.stride
             let pos := i / st.stride % st.radix
             let terms := (List.range st.radix).map fun q =>
               (element b.spad? xf w (n * st.radix) (group * (st.radix * st.radix) + pos * st.radix + q)).mul
                 (element b.spad? xf src n (base + q * st.stride))
             (∀ q, q < st.radix → base + q * st.stride < n) → st.radix ≠ 0 →
             leNat (b'.accBytesAt (dst + 4 * i) 4) = Num.fp32.round r (exactSum r terms))))

/-! Scheduling, pre-emption, memory and the fabric: the steps of the device itself (R64 to R76, R96 to R101, R357 to R411). -/

/-- R365 to R369, R384, R388, R418: BLOCK_DISPATCH starts the next waiting block, its teams at the kernel's entry with every lane;
BLOCK_END frees the core once every team and the sequencer have ended; ARBITRATION gives an idle datapath to the ready team that
goes first, withheld for its clause's weight, and delivers an overflow of the fault entries, a watchdog trap or that of a word which
has issued, at its PC, due at its boundary (R122, R395; for the last the boundary is the model's choice, entries 29 and 62); ALLOWANCE_REPLENISH adds RATE up to
CAP on every core and serves a withheld winner where that covers its weight, else withholds it one cycle more; a TIME packet is made
every 4,096 cycles. R357, R358: Longshore answers a core's request with "none" where no team has two iterations left. -/
def Obligations.SchedulingEvents : Prop :=
  (∀ (s : State) (key : Nat) (l : Launch) (c n : Nat) (r : List Nat), s.nextLaunch = some (key, l) → s.freeCore l.ctx = some c →
    l.waiting = n :: r → l.rec_.rf = false → (PMap.get? s.ctxs l.ctx).map (·.trace) = some 0 →
    ∃ s' b l', exec .blockDispatch s = .next s' ∧ s'.block? c = some b ∧ b.launch = key ∧ b.ctx = l.ctx ∧ b.number = n ∧
      b.nTeams = l.teams ∧ b.absent = [] ∧ b.seq.pc = l.rec_.mstream ∧ b.seq.ended = !l.rec_.ms ∧
      PMap.get? s'.launches key = some l' ∧ l'.waiting = r ∧ l'.live = l.live + 1 ∧
      (∀ t, t < l.teams → ∃ tm, s'.team? c t = some tm ∧ tm.status = .live ∧ tm.pc = l.rec_.entry ∧ tm.size = l.rec_.size ∧
        tm.act = maskOf (List.range l.rec_.size) ∧ tm.stack = [] ∧ tm.p1 = false ∧ tm.ix = 0 ∧ tm.six = 0 ∧ tm.arg = l.arg ∧
        tm.prio = l.prio ∧
        tm.rangeNext = BitVec.ofNat 32 (l.rbegin + (n * l.teams + t) * (l.rend - l.rbegin) / (l.blocks * l.teams)) ∧
        tm.rangeEnd = BitVec.ofNat 32 (l.rbegin + (n * l.teams + t + 1) * (l.rend - l.rbegin) / (l.blocks * l.teams))) ∧
      ∀ a, s'.homeByte a = s.homeByte a) ∧
  (∀ (s : State) (c : Nat) (b : Block), s.block? c = some b → HarbourIdle s →
    ((∃ t tm, t < 16 ∧ s.team? c t = some tm ∧ tm.status ≠ .exited ∧ tm.status ≠ .killed) → exec (.blockEnd c) s = .next s) ∧
    ((∀ t tm, t < 16 → s.team? c t = some tm → tm.status = .exited ∨ tm.status = .killed) → b.seq.ended = true →
      b.seq.engine = none → b.group = none → (s.core c).trace.on = false →
      ∃ s', exec (.blockEnd c) s = .next s' ∧ s'.block? c = none ∧ ∀ t, t < 16 → s'.team? c t = none)) ∧
  (∀ (s : State) (c dp t : Nat) (tm : Team) (b : Block), s.block? c = some b → b.stopping = false → dp < 4 →
    PMap.get? (s.core c).dps dp = none → (t, tm) ∈ s.readyTeams c dp →
    ((∀ p ∈ s.readyTeams c dp, GoesBefore (t, tm) p) → b.seq.trap = none →
      (∀ p ∈ s.readyTeams c dp, p.2.overflow = [] ∧ p.2.wdogDue = false ∧ p.2.lateTrap = none) →
      ∃ s', exec (.arbitration c dp) s = .next s' ∧ s'.blocks = s.blocks ∧
        PMap.get? (s'.core c).dps dp = some ⟨some t, some (s.clauseWeight c tm.p1 tm.warps.length Config.clauseWords tm.pc), 0⟩ ∧
        (∀ a, s'.homeByte a = s.homeByte a) ∧ ∀ k, (PMap.get? s'.teams k).map (fun u => { u with passOver := 0, yielded := false }) =
          (PMap.get? s.teams k).map fun u => { u with passOver := 0, yielded := false }) ∧
    (s.readyTeams c dp = [(t, tm)] → tm.lateTrap = none → tm.p1 = false → tm.words = 0 → tm.advs = [] → tm.overflow = [] → tm.wdogDue = true →
      TrapsFrom (s.setTeam c t { tm with wdogDue := false }) c t { tm with wdogDue := false } { cause := .watchdog, kind := .boundary }
        (exec (.arbitration c dp) s)) ∧
    (s.readyTeams c dp = [(t, tm)] → tm.lateTrap = none → tm.words = 0 → tm.advs = [] → tm.ovfHeld < tm.overflow.length →
      ∀ e more, tm.faults ++ tm.overflow = e :: more →
        TrapsFrom s c t tm { e.trap .boundary true with entry := some 0 } (exec (.arbitration c dp) s)) ∧
    (s.readyTeams c dp = [(t, tm)] → tm.p1 = false → tm.words = 0 → tm.advs = [] →
      (∀ x more, tm.failed = [] → tm.late = x :: more →
        let tl : Team := { tm with late := more }
        TrapsFrom (s.setTeam c t tl) c t tl
          { cause := .poisonedData, kind := .late, mask := some (maskOf (x.bad.map (·.1))), addr := (x.bad.map (·.2)).headD 0
            pc := some x.pc, redo := [{ x with bad := [] }] } (exec (.arbitration c dp) s)) ∧
      ∀ f pc, tm.failed = [f] → f.at_ = some (pc, false) →
        let tl : Team := { tm with failed := [] }
        TrapsFrom (s.setTeam c t tl) c t tl { cause := f.cause, kind := .deferred, mask := some f.mask, addr := f.addr, pc := some pc }
          (exec (.arbitration c dp) s))) ∧
  (∀ s : State,
    ∃ s', exec .allowanceReplenish s = .next s' ∧ s'.cycle = s.cycle + 1 ∧ s'.teams = s.teams ∧ (∀ a, s'.homeByte a = s.homeByte a) ∧
      (∀ c, c < 192 → s.block? c = none → (s'.core c).allow = min (s.capOf c) ((s.core c).allow + s.rateOf c)) ∧
      ∀ c b, c < 192 → s.block? c = some b → b.seq.engine = none →
        let a := min (s.capOf c) ((s.core c).allow + s.rateOf c)
        ((∀ p ∈ (s.core c).dps, p.2.withheld = none) → (s'.core c).allow = a) ∧
        ∀ dp t w n, (s.core c).dps = [(dp, ⟨some t, some w, n⟩)] →
          (w ≤ a → (s'.core c).allow = a - w ∧ (s'.core c).dps = [(dp, ⟨some t, none, 0⟩)]) ∧
          (a < w → (s'.core c).allow = a ∧ (s'.core c).dps = [(dp, ⟨some t, some w, n + 1⟩)])) ∧
  (∀ (s : State), PMap.wf s.blocks = true → ∃ s', exec .traceTimeTick s = .next s' ∧ (s.cycle % 4096 ≠ 0 → s' = s) ∧
    s'.teams = s.teams ∧ s'.blocks = s.blocks ∧ (∀ a, s'.homeByte a = s.homeByte a) ∧
    ∀ c b, s.block? c = some b → s.cycle % 4096 = 0 → (s.core c).trace.on = true → (s.core c).trace.types.getLsbD 7 = true →
      (s.core c).trace.held < 64 →
      ∃ x y, (s.core c).trace.buf = x ++ y ∧
        (s'.core c).trace.buf = x ++ ⟨s.cycle, 0, BitVec.ofNat 64 (7 + 256 * (s.cycle % 2 ^ 56))⟩ :: y) ∧
  (∀ (s : State) (die c : Nat) (r : List Nat) (b : Block), (PMap.get? s.shoreQ die).getD [] = c :: r → s.block? c = some b →
    (∀ p ∈ s.cores, ∀ k, p.2.shore ≠ .donor k) →
    ∃ s', exec (.longshoreRequest die) s = .next s' ∧ PMap.get? s'.shoreQ die = some r ∧ s'.teams = s.teams ∧
      (s.donors c b.launch = [] → (s'.core c).shore = .none) ∧
      (s.donors c b.launch ≠ [] → ∃ k n, (s'.core c).shore = .donor k ∧ (k, n) ∈ s.donors c b.launch ∧
        ∀ p ∈ s.donors c b.launch, p.2 ≤ n)) ∧
  ∀ (s : State) (c : Nat), (s.core c).shore = .given ∨ (s.core c).shore = .none → s.rangeWaiters c = [] →
    ∃ s', exec (.longshoreAnswer c) s = .next s' ∧ (s'.core c).shore = .idle ∧ (s'.core c).tasks = (s.core c).tasks ∧
      s'.teams = s.teams ∧ s'.blocks = s.blocks ∧ ∀ a, s'.homeByte a = s.homeByte a

/-- R406 to R411: a request asks every team of the block to stop at a safe point, and stops those that stand at one; 1 ms later a
team stops at any clause; BLOCK_SAVE takes a block whose teams have stopped off its core with its state, and BLOCK_RESTORE puts it
back; a watchdog interval that is over makes the trap due, at P1 it begins the second, and that one's end kills the context. -/
def Obligations.PreemptionEvents : Prop :=
  (∀ (s : State) (c t : Nat) (b : Block) (tm : Team), s.block? c = some b → s.team? c t = some tm → t < 16 →
    tm.status = .live ∨ tm.status = .parked →
    let atPoint (all : Bool) : Prop := tm.words = 0 ∧ tm.advs = [] ∧ (tm.pad = none ∨ tm.status = .parked) ∧ (all = true ∨ (tm.p1 = false ∧ ∃ e ∈ b.rec_.safe, e.1 = tm.pc))
    (∃ s' b' tm', exec (.preemptRequest c) s = .next s' ∧ s'.block? c = some b' ∧ b'.stopping = true ∧ s'.team? c t = some tm' ∧
      tm'.stopReq = true ∧ SameRegs tm tm' ∧ tm'.pc = tm.pc ∧ (atPoint tm.saveAll → tm'.status = .stopped) ∧
      (¬atPoint tm.saveAll → tm'.status = tm.status) ∧ ∀ a, s'.homeByte a = s.homeByte a) ∧
    (b.stopping = true → b.stopAt + Config.cyclesPerMs ≤ s.cycle → tm.stopReq = true →
      ∃ s' tm', exec (.preemptForceTimeout c t) s = .next s' ∧ s'.team? c t = some tm' ∧ tm'.saveAll = true ∧ SameRegs tm tm' ∧
        tm'.pc = tm.pc ∧ (atPoint true → tm'.status = .stopped) ∧ (¬atPoint true → tm'.status = tm.status)) ∧
    (s.cycle < b.stopAt + Config.cyclesPerMs → exec (.preemptForceTimeout c t) s = .next s)) ∧
  (∀ (s : State) (c : Nat) (b : Block), s.block? c = some b → b.stopping = true → s.saveReady c b = true → b.group = none →
    b.seq.engine = none → s.saveUpset c b = false → b.copies = [] → (s.core c).trace.on = false → HarbourIdle s →
    ∃ s' k, exec (.blockSave c) s = .next s' ∧ s'.block? c = none ∧ s'.saved = s.saved ++ [k] ∧
      k.block = { b with stopping := false, giveUp := false } ∧
      ∀ t, t < 16 → (s'.team? c t = none ∧ ∀ tm, s.team? c t = some tm → ∃ tm', PMap.get? k.teams t = some tm' ∧ tm'.pc = tm.pc ∧
        tm'.act = tm.act ∧ tm'.stack = tm.stack ∧ tm'.u = tm.u ∧ tm'.k = tm.k ∧ tm'.ac = tm.ac ∧ tm'.wait = tm.wait ∧
        (tm.saveAll = true → tm'.v = tm.v))) ∧
  (∀ (s : State) (k c : Nat) (x : SavedBlock), s.saved[k]? = some x → s.freeCore x.block.ctx = some c → PMap.wf x.teams = true →
    (∀ p ∈ x.teams, p.1 < 16 ∧ p.2.status = .stopped ∧ p.2.wait = noWait) → x.block.seq.trap = none →
    (PMap.get? s.ctxs x.block.ctx).map (·.trace) = some 0 →
    ∃ s' b', exec (.blockRestore k) s = .next s' ∧ s'.saved = s.saved.take k ++ s.saved.drop (k + 1) ∧ s'.block? c = some b' ∧
      { b' with absent := x.block.absent } = x.block ∧ (∀ a, s'.homeByte a = s.homeByte a) ∧
      ∀ t tm, PMap.get? x.teams t = some tm → ∃ tm', s'.team? c t = some tm' ∧ tm'.status = .live ∧ tm'.pc = tm.pc ∧
        tm'.act = tm.act ∧ tm'.stack = tm.stack ∧ SameRegs tm tm' ∧ SameFlags tm tm' ∧ tm'.wdogFrom = s.cycle) ∧
  ∀ (s : State) (c t : Nat) (tm : Team), s.team? c t = some tm → tm.status = .live →
    let interval := ((PMap.get? s.ctxs (s.ctxOf c)).map (·.wdogMs)).getD 100 * Config.cyclesPerMs
    (tm.wdogDue = false → tm.wdog2From = none →
      (s.cycle + tm.wdogElapsed < tm.wdogFrom + interval → exec (.watchdogExpiry c t) s = .next s) ∧
      (tm.wdogFrom + interval ≤ s.cycle + tm.wdogElapsed → exec (.watchdogExpiry c t) s = .next (s.setTeam c t
        (if tm.p1 then { tm with wdog2From := some s.cycle } else { tm with wdogDue := true })))) ∧
    ∀ f, tm.wdog2From = some f →
      (s.cycle < f + interval → exec (.watchdogSecondExpiry c t) s = .next s) ∧
      (f + interval ≤ s.cycle → HarbourIdle s → ∃ s', exec (.watchdogSecondExpiry c t) s = .next s' ∧
        ∀ k b, PMap.get? s.blocks k = some b → b.ctx = s.ctxOf c → PMap.get? s'.blocks k = none)

/-- R67 to R76, R118, R427: HBM_COMPLETION ends a stack's request and changes no byte that main memory reads as; a sector found
uncorrectable is poisoned, a corrected error is counted for its row and recorded, and the third within 24 hours declares the row. PATROL_SCRUB and ROW_DECLARED_LASTING act on
the error records, REMAP_COPY_DONE switches a row, REFRESH changes nothing. TABLE_WALK_DONE puts the leaf found into the TLBs.
R140: WINDOW_LDP_REPLY, a free choice among the team's window LDPs that may land (entry 1), writes the bytes of the members'
scratchpads, or those of the team's own STPs that still queue (R328); a lane whose word cannot be corrected writes nothing, and the LDP's trap is due
(R426, entry 62). A window LDP that TRET has issued again waits for its lines (R135). When a request and its completion stand (entries 48 and 67) and that a remapped row's errors count anew (entry 64) are
the model's choices. -/
def Obligations.MemoryEvents : Prop :=
  let recorded (s s' : State) (sector kind : Nat) : Prop :=
    ∃ n, ((PMap.get? s'.hbmRecs (stackOf (64 * sector))).getD []).getLast? =
      some ⟨stackOf (64 * sector), sector, kind, n, s.cycle / Config.cyclesPerMs⟩
  let counted (s s' : State) (sector : Nat) : Prop :=
    let k := stackOf (64 * sector)
    let r := rowOf sector
    s'.errsOf k r = s.errsOf k r ++ [s.clock] ∧ (2 ≤ (s.errsOf k r).length → (k, r) ∈ s'.declared)
  (∀ (s : State) (stack tag : Nat) (e : EccResult) (q : HbmReq), PMap.wf s.l2 = true →
    s.hbmReqs.find? (fun x => x.stack == stack && x.tag == tag) = some q →
    (s.remapping q.sector = true → exec (.hbmCompletion stack tag e) s = .next s) ∧ (s.remapping q.sector = false →
    ∃ s', exec (.hbmCompletion stack tag e) s = .next s' ∧
      (s.hbmWait = [] → ∃ more, s'.hbmReqs = s.hbmReqs.erase q ++ more ∧ ∀ x ∈ more, x.write = true) ∧
      (∀ a, s'.homeByte a = s.homeByte a) ∧ s'.teams = s.teams ∧ s'.blocks = s.blocks ∧
      (q.write = false ∨ s.l2Has q.sector = false →
        (e = .uncorrectable → q.sector ∈ s'.poison) ∧ (e = .corrected → recorded s s' q.sector 0 ∧ counted s s' q.sector)) ∧
      (q.write = false → s'.l2Has q.sector = true) ∧
      (q.write = true → (∀ a, a / 64 = q.sector → Memory.read s'.mem a = s'.homeByte a) ∧
        (s.l2Whole.contains q.sector = true → q.sector ∉ s'.poison)))) ∧
  (∀ (s : State) (sector : Nat), s.ready = true → 64 * sector ≤ Config.maxPA → s.freeRows.contains (rowKey (64 * sector)) = false →
    exec (.patrolScrub sector .clean) s = .next s ∧
    (∃ s', exec (.patrolScrub sector .corrected) s = .next s' ∧ recorded s s' sector 1 ∧ counted s s' sector ∧ s'.poison = s.poison ∧ s'.mem = s.mem) ∧
    ∃ s', exec (.patrolScrub sector .uncorrectable) s = .next s' ∧ sector ∈ s'.poison ∧ s'.mem = s.mem ∧ s'.teams = s.teams ∧
      (s.l2Has sector = false → s'.poisoned sector = true) ∧
      (s.l2Has sector = true → s.poison.contains sector = false → s'.poisoned sector = false)) ∧
  (∀ (s : State) (stack row : Nat), s.ready = true → (stack, row) ∈ s.declared → s.spareless stack row = false →
    (∀ x ∈ s.remaps, ¬(x.stack = stack ∧ x.row = row)) →
    ∃ s', exec (.rowDeclaredLasting (.row stack row)) s = .next s' ∧ s'.remaps = s.remaps ++ [⟨stack, row, false⟩] ∧
      s'.sparesUsed stack row = s.sparesUsed stack row + 1 ∧ (stack, row) ∉ s'.declared ∧ s'.mem = s.mem) ∧
  (∀ (s : State) (c bank : Nat), s.poolDeclared.find? (fun p => p.1 == c) = some (c, bank) →
    ∃ s', exec (.rowDeclaredLasting (.pool c)) s = .next s' ∧ s'.mem = s.mem ∧ (c, bank) ∉ s'.poolDeclared ∧
      ((s.core c).lastingBanks.length < (s.core c).spares →
        (s'.core c).lastingBanks = (s.core c).lastingBanks ++ [bank] ∧ s'.teams = s.teams ∧ s'.blocks = s.blocks) ∧
      ((s.core c).spares ≤ (s.core c).lastingBanks.length → (s'.core c).withdrawn = true ∧
        (∀ ctx, s'.allotted c ctx = false) ∧ (∀ b, s.block? c = some b → ∃ b', s'.block? c = some b' ∧ b'.stopping = true) ∧
        ∀ k, (PMap.get? s'.teams k).map (fun u => { u with stopReq := false }) =
          (PMap.get? s.teams k).map fun u => { u with stopReq := false })) ∧
  (∀ (s : State) (stack row : Nat), s.ready = true → s.remaps = [⟨stack, row, false⟩] →
    ∃ s', exec (.remapCopyDone stack row) s = .next s' ∧ s'.remaps = [⟨stack, row, true⟩] ∧ s'.errsOf stack row = [] ∧
      (∀ a, s'.homeByte a = s.homeByte a)) ∧
  (∀ (s : State) (stack bank : Nat), exec (.refresh stack bank) s = .next s) ∧
  (∀ (s : State) (k : Nat) (w : Walk), s.walks[k]? = some w →
    ∃ s', exec (.tableWalkDone k) s = .next s' ∧ (∀ a, s'.homeByte a = s.homeByte a) ∧ s'.blocks = s.blocks ∧
      (∀ q, (PMap.get? s'.teams q).isSome = (PMap.get? s.teams q).isSome) ∧
      ∀ e s1, w.res = none → ({ s with walks := listDrop s.walks k } : State).walkEnd w = (s1, .ok e) →
        e.covers w.ctx (w.page * 2 ^ 16) = true ∧ s'.tlbHit w.core w.ctx (w.page * 2 ^ 16) = some e) ∧
  ∀ (s : State) (c t : Nat) (tm : Team), s.team? c t = some tm → tm.status = .live →
    (s.winReady tm = [] → exec (.windowLdpReply c t) s = .next s) ∧
    (s.winReady tm ≠ [] → (∀ x ∈ s.winReady tm, (x.lanes.map (·.1)).Nodup ∧ ∀ y ∈ tm.late, y.id ≠ x.id) →
      ∃ x ∈ s.winReady tm, ∃ s' tm', exec (.windowLdpReply c t) s = .next s' ∧ s'.team? c t = some tm' ∧
        tm'.wld = tm.wld.filter (·.id != x.id) ∧ SameFlags tm tm' ∧ SameLatches tm tm' ∧ OthersStay s s' c t ∧
        let n := if x.size ≤ 4 then 1 else x.size / 4
        ∀ d, x.dest = .lane d → d + n ≤ 1024 → ∀ l q, q < 1024 →
          (¬(d ≤ q ∧ q < d + n) ∨ l ∉ x.lanes.map (·.1) → tm'.laneHeld l q = tm.laneHeld l q) ∧
          ∀ m o b, (l, m, o) ∈ x.lanes → s.block? m = some b → d ≤ q → q < d + n →
            let own (i : Nat) := tm.queuedPad x.seq m (o + i)
            let upset := ∃ i, i < x.size ∧ own i = none ∧ meets b.upSp (o + i) 1 = true
            (¬upset → tm'.laneHeld l q = ⟨wordOf (leNat ((List.range x.size).map fun i => (own i).getD (b.spad? (o + i)))) (q - d),
              decide (l ∈ x.tainted)⟩) ∧
            (upset → l ∉ x.helpers →
              tm'.laneHeld l q = tm.laneHeld l q ∧ ∃ y ∈ tm'.late, y.dest = x.dest ∧ y.pc = x.pc ∧ y.p1 = x.p1 ∧
                (l, 0x80000000 + 0x400000 * (m % 12) + o) ∈ y.bad))

/-- R96 to R101: another device's request is refused unless an export entry covers it, and else reads or writes main memory and
is answered. The answer to this device's own load lands, where no store of the core is under way that it would see (R306), a refusal, a timeout or an unreachable owner makes a fault entry of the
lane, the latter two with cause Remote Timeout; a late answer is discarded. That nothing reaches the device and nothing is answered while no port has its link is the model's
choice (entry 2). -/
def Obligations.FabricEvents : Prop :=
  (∀ (s : State) (r : RemoteIn), s.linked = false → exec (.remoteRequest r) s = .next s) ∧
  (∀ (s : State) (r : RemoteIn), s.ready = true → s.linked = true → s.deviceId ≠ none →
    (s.exported r = false → exec (.remoteRequest r) s = .next { s with outbox := s.outbox ++ [.answer r.dev r.id .refused] }) ∧
    (s.exported r = true → ∀ n, r.op = .read n → 0 < n → s.ecc = [] → (∀ i, i < n → (r.lpa + i) / 64 ∉ s.poison) →
      ∃ s', exec (.remoteRequest r) s = .next s' ∧ (∀ a, s'.homeByte a = s.homeByte a) ∧
        s'.outbox = s.outbox ++ [.answer r.dev r.id (.data (s.homeBytes r.lpa n))]) ∧
    (s.exported r = true → ∀ bs, r.op = .write bs →
      ∃ s', exec (.remoteRequest r) s = .next s' ∧ s'.outbox = s.outbox ++ [.answer r.dev r.id .done] ∧ s'.teams = s.teams ∧
        ∀ a, s'.homeByte a = if r.lpa ≤ a ∧ a < r.lpa + bs.length then bs.getD (a - r.lpa) 0 else s.homeByte a)) ∧
  (∀ (s : State) (r : RemoteIn), s.exported r = true → ∃ i e, (i, e) ∈ s.exports ∧ i < 1024 ∧ e.getLsbD 63 = true ∧
    (opWrites r.op = true → e.getLsbD 62 = true) ∧ e.toNat / 2 ^ 46 % 2 ^ 13 = r.dev ∧ e.toNat / 2 ^ 38 % 2 ^ 8 = r.ctx ∧
    e.toNat / 2 ^ 19 % 2 ^ 19 * 2 ^ 21 ≤ r.lpa ∧
    r.lpa + opSize r.op ≤ (e.toNat / 2 ^ 19 % 2 ^ 19 + e.toNat % 2 ^ 19) * 2 ^ 21) ∧
  (∀ (s : State) (id : Nat) (a : RemoteAns), (∀ r ∈ s.remote, r.id ≠ id) → exec (.remoteReply id a) s = .next s) ∧
  (∀ (s : State) (id : Nat) (r : RemoteReq) (c t pass lane : Nat) (tm : Team) (p : OutPass) (x : LaneReq),
    s.remote.find? (fun q => q.id == id) = some r → r.what = .load c t pass lane → s.team? c t = some tm → tm.status = .live →
    tm.out.find? (fun q => q.id == pass) = some p → p.lanes.find? (fun y => y.lane == lane) = some x → x.helper = false →
    let n := if p.size ≤ 4 then 1 else p.size / 4
    let due := r.at_ + s.remoteTimeout * Config.cyclesPerTenth
    (∀ a, due ≤ s.cycle → exec (.remoteReply id a) s = .next s) ∧
    (∀ bs d, s.cycle < due → s.linked = true → bs.length = r.len → p.dest = .lane d → d + n ≤ 1024 → x.writes = true →
      (s.core c).order = [] →
      ∃ s' tm', exec (.remoteReply id (.data bs)) s = .next s' ∧ s'.team? c t = some tm' ∧ s'.remote = s.remote.filter (·.id != id) ∧
        (∀ l q, q < 1024 → tm'.laneHeld l q =
          if l = lane ∧ d ≤ q ∧ q < d + n then ⟨wordOf (leNat bs) (q - d), p.consume⟩ else tm.laneHeld l q) ∧
        OthersStay s s' c t) ∧
    (s.cycle < due → s.linked = true → ∃ s' tm' e y, exec (.remoteReply id .refused) s = .next s' ∧ s'.team? c t = some tm' ∧ e ∈ tm'.faults ++ tm'.overflow ∧
      y ∈ e.lanes ∧ y.lane = lane ∧ y.va = x.va ∧ y.cause = .permission ∧ SameRegs tm tm' ∧ OthersStay s s' c t) ∧
    (s.cycle < due → exec (.remoteTimeout id) s = .next s) ∧
    (due ≤ s.cycle →
      ∃ s' tm' e y, exec (.remoteTimeout id) s = .next s' ∧ s'.team? c t = some tm' ∧ e ∈ tm'.faults ++ tm'.overflow ∧
        y ∈ e.lanes ∧ y.lane = lane ∧ y.va = x.va ∧ y.cause = .remoteTimeout ∧ SameRegs tm tm' ∧ OthersStay s s' c t)) ∧
  (∀ (s : State) (dev : Nat), ∃ s', exec (.ownerUnreachable dev) s = .next s' ∧ dev ∈ s'.unreachable ∧
    (∀ r ∈ s'.remote, r.dev ≠ dev) ∧ (∀ a, s'.homeByte a = s.homeByte a) ∧
    ∀ (r : RemoteReq) (c t pass lane : Nat) (tm : Team) (p : OutPass) (x : LaneReq), r ∈ s.remote → r.dev = dev →
      r.what = .load c t pass lane → s.team? c t = some tm → tm.status = .live → tm.out.find? (fun q => q.id == pass) = some p →
      p.lanes.find? (fun y => y.lane == lane) = some x → x.helper = false →
      ∃ tm' e y, s'.team? c t = some tm' ∧ e ∈ tm'.faults ++ tm'.overflow ∧ y ∈ e.lanes ∧ y.lane = lane ∧ y.va = x.va ∧
        y.cause = .remoteTimeout) ∧
  ∀ (s : State) (dev : Nat), exec (.ownerReachable dev) s = .next { s with unreachable := s.unreachable.filter (· != dev) }

/-- R420, R421, R424, R426, R428, R78: a cold reset loses HBM and begins the time and the fabric configuration anew; a warm reset, as
after a die-to-die replay limit, keeps them, with poison and free rows; both end every session, context, launch, block and team,
and keep error records, repairs, images and fuses. DEVICE_READY boots the first image that passes, and with none the device never
becomes ready; links lost and returned change timing alone; a junction above 95 °C halves its quadrant's RATE, with a floor of 1,
until it is below 90 °C, an HBM stack's alert halves that of its compute stack's quadrants, a junction above 105 °C sets it to 1 for
its stack, where no block is placed, and any above 115 °C resets the device. That a bank's sensor resets the device too (entry 58), what a reset keeps beyond Table
24.4 (entry 59), and the boot from two slots with DEVICE_READY (entry 60) are the model's choices. -/
def Obligations.ResetsAndFirmware : Prop :=
  let gone (s s' : State) : Prop := s'.sessions = [] ∧ s'.ctxs = [] ∧ s'.launches = [] ∧ s'.blocks = [] ∧ s'.teams = [] ∧
    s'.remote = [] ∧ s'.saved = [] ∧ s'.exports = [] ∧ s'.groups = [] ∧ s'.l2 = [] ∧ s'.part = [] ∧ s'.ready = false ∧
    s'.hbmRecs = s.hbmRecs ∧ s'.errWindow = s.errWindow ∧ s'.spareRows = s.spareRows ∧ s'.remaps = s.remaps ∧
    s'.images = s.images ∧ s'.fuseMin = s.fuseMin ∧ s'.clock = s.clock ∧
    ∀ c, (s'.core c).spares = (s.core c).spares ∧ (s'.core c).withdrawn = (s.core c).withdrawn ∧ (s'.core c).tlb = [] ∧
      (s'.core c).l1 = [] ∧ (s'.core c).order = []
  let warm (s s' : State) : Prop := gone s s' ∧ s'.warm = true ∧ s'.cycle = s.cycle ∧ s'.epoch = s.epoch ∧ s'.mem = s.mem ∧ s'.poison = s.poison ∧
    s'.freeRows = s.freeRows ∧ s'.deviceId = s.deviceId ∧ s'.remoteTimeout = s.remoteTimeout ∧
    s'.startTimeout = s.startTimeout ∧ s'.groupTimeout = s.groupTimeout
  (∀ (s : State), PMap.wf s.cores = true → ∃ s', exec .coldReset s = .next s' ∧ gone s s' ∧ s'.warm = false ∧ s'.cycle = 0 ∧
    s'.mem = [] ∧ s'.poison = [] ∧ s'.deviceId = none ∧ s'.remoteTimeout = 20 ∧ s'.startTimeout = 100 ∧ s'.groupTimeout = 20) ∧
  (∀ (s : State), PMap.wf s.cores = true → ∀ i ∈ [Instr.warmReset, .d2dReplayLimit], ∃ s', exec i s = .next s' ∧ warm s s') ∧
  (∀ (s : State),
    let passes (x : Image) : Prop := x.signed = true ∧ x.keyOk = true ∧ s.fuseMin ≤ x.version
    let boots (x : Image) : State := { s with ready := true, secVersion := x.version, fwDigest := x.digest }
    (s.ready = true → exec .deviceReady s = .next s) ∧
    (s.ready = false →
      (∀ x, PMap.get? s.images 0 = some x → passes x → exec .deviceReady s = .next (boots x)) ∧
      ((∀ x, PMap.get? s.images 0 = some x → ¬passes x) →
        (∀ x, PMap.get? s.images 1 = some x → passes x → exec .deviceReady s = .next (boots x)) ∧
        ((∀ x, PMap.get? s.images 1 = some x → ¬passes x) → exec .deviceReady s = .next s)))) ∧
  (∀ (s : State) (port : Nat),
    exec (.portLinkLoss port) s = .next (if port < 18 ∧ port ∉ s.portsDown then { s with portsDown := port :: s.portsDown } else s) ∧
    exec (.portLinkReturn port) s = .next { s with portsDown := s.portsDown.filter (· != port) }) ∧
  (∀ (s : State) (stack bank : Nat) (celsius : Int), ∃ s', exec (.temperatureChange (.bank stack bank) celsius) s = .next s' ∧
    (celsius ≤ 115 → PMap.get? s'.temps (sensorKey (.bank stack bank)) = some celsius ∧ s' = { s with temps := s'.temps }) ∧
    (115 < celsius → s'.warm = true ∧ s'.teams = [] ∧ s'.ctxs = [] ∧ s'.sessions = [] ∧ s'.deviceId = s.deviceId)) ∧
  (∀ (s : State) (stack quadrant : Nat) (celsius : Int),
    let q := 4 * (stack % 4) + quadrant % 4
    ∃ s', exec (.temperatureChange (.compute stack quadrant) celsius) s = .next s' ∧
      (celsius ≤ 115 → PMap.get? s'.temps q = some celsius ∧ s' = { s with temps := s'.temps, throttle := s'.throttle } ∧
        (95 < celsius → q ∈ s'.throttle) ∧ (celsius < 90 → q ∉ s'.throttle) ∧
        (90 ≤ celsius → celsius ≤ 95 → s'.throttle = s.throttle)) ∧
      (115 < celsius → s'.warm = true ∧ s'.teams = [] ∧ s'.ctxs = [] ∧ s'.sessions = [] ∧ s'.deviceId = s.deviceId)) ∧
  ∀ (s : State) (c : Nat), c < 192 →
    let k := coreDie c
    let above (p : Sensor) : Prop := ∃ n, PMap.get? s.temps (sensorKey p) = some n ∧ 105 < n
    let hot := ∃ q, q < 4 ∧ above (.compute k q)
    let alert := ∃ h ∈ [2 * k, 2 * k + 1], ∃ b, b < 48 ∧ above (.bank h b)
    let halved (p : Prop) (r r' : Nat) : Prop := (p → r' = max 1 (r / 2)) ∧ (¬p → r' = r)
    (hot → s.rateOf c = 1 ∧ ∀ ctx, s.freeFor ctx c = false) ∧
    (¬hot → ∃ r, halved (coreQuadrant c ∈ s.throttle) ((PMap.get? s.rate (coreDomain c)).getD 255) r ∧ halved alert r (s.rateOf c))

/-- R80, R82 to R85: a command with the expected SEQ is performed, one of the next 255 waits, one of the last 256 is answered with
its stored reply, any other is REJECTED; an unassigned code is UNSUPPORTED, a command without its right or with a wrong length
REJECTED, each with no other effect; what stands in no session is discarded. R91: CONFIG_WRITE and CONFIG_READ. The model's
choices: a command that decrypts is the event itself (entry 13); while no port has its link nothing reaches the device (entry 2);
a SEQ of the last 256 for which no reply is stored yet is answered with nothing (entry 34).
R421 to R424: a ready device answers a nonce with a report that carries it, with its security version and its reset, under
a key that is an uncompressed point and a signature of two 48-byte numbers; a grant that
verifies opens a session with NEXT = 0, up to sixteen, on the oldest nonce. Whether a grant verifies is the event's, and the key's and the
signature's bytes are free (entry 13); nothing is answered while no port has its link (entry 2). -/
def Obligations.SessionsAndConfiguration : Prop :=
  (let same (s' s : State) : Prop := { s' with outbox := s.outbox, sessions := s.sessions } = s
   let value (i : Nat) (s : State) : Nat := match i with
     | 0 => s.deviceId.getD 0xFFFFFFFF
     | 1 => s.remoteTimeout
     | 2 => s.startTimeout
     | _ => s.groupTimeout
   (∀ (s : State) (c : Cmd), s.linked = false → exec (.configRead c) s = .next s) ∧
   (∀ (s : State) (c : Cmd), s.linked = true → PMap.get? s.sessions c.sess = none →
     exec (.configRead c) s = .next { s with discarded := s.discarded + 1 }) ∧
   (∀ (s : State) (c : Cmd), s.linked = true → exec (.messageOutsideSession c) s = .next { s with discarded := s.discarded + 1 }) ∧
   (∀ (s : State) (c : Cmd) (x : Session), s.linked = true → PMap.get? s.sessions c.sess = some x → x.next < 2 ^ 32 →
     (1 ≤ ahead x c.hdr.seq → ahead x c.hdr.seq ≤ 255 → x.held.length < Config.heldCommands →
       exec (.configRead c) s =
         .next { s with sessions := PMap.set s.sessions c.sess { x with held := x.held ++ [withOpc c 11] } }) ∧
     (1 ≤ behind x c.hdr.seq → behind x c.hdr.seq ≤ 256 →
       exec (.configRead c) s = .next (match x.replies.find? fun r => r.1.seq == c.hdr.seq with
         | some r => { s with outbox := s.outbox ++ [.reply c.sess r.1 r.2] }
         | none => s)) ∧
     (255 < ahead x c.hdr.seq → 256 < behind x c.hdr.seq →
       exec (.configRead c) s = .next { s with outbox := s.outbox ++ [.reply c.sess { c.hdr with opc := 11, len := 8 } [1, 0]] })) ∧
   (∀ (s : State) (c : Cmd) (x : Session), PMap.get? s.sessions c.sess = some x → HarbourIdle s → x.busy = false →
     x.next = c.hdr.seq.toNat →
     (c.hdr.opc = 0 ∨ 13 < c.hdr.opc.toNat →
       ∃ s', exec (.unassignedCommand c) s = .next s' ∧ same s' s ∧ Answered s s' c c.hdr.opc x 5 []) ∧
     (c.hdr.ctx ≠ 0 ∨ x.grant.rights = false ∨ c.hdr.len ≠ 8 →
       ∃ s', exec (.configWrite c) s = .next s' ∧ same s' s ∧ Answered s s' c 10 x 1 []) ∧
     (grantNames x.grant c.hdr.ctx.toNat = false ∨ c.hdr.len ≠ 8 →
       ∃ s', exec (.groupDestroy c) s = .next s' ∧ same s' s ∧ Answered s s' c 9 x 1 [])) ∧
   (∀ (s : State) (c : Cmd) (x : Session) (item v : Word), Turn s c 10 x → c.pay = [item, v] →
     ∃ s', exec (.configWrite c) s = .next s' ∧
       (256 ≤ item.toNat → Answered s s' c 10 x 1 [] ∧ same s' s) ∧
       (4 ≤ item.toNat → item.toNat < 256 → Answered s s' c 10 x 5 [] ∧ same s' s) ∧
       (item = 0 → v.toNat ≤ 4607 → s.ctxs = [] → Answered s s' c 10 x 0 [] ∧ same s' { s with deviceId := some v.toNat }) ∧
       (item = 0 → 4607 < v.toNat ∨ s.ctxs ≠ [] → Answered s s' c 10 x 1 [] ∧ same s' s) ∧
       (1 ≤ item.toNat → item.toNat < 4 → v = 0 ∨ 65535 < v.toNat → Answered s s' c 10 x 1 [] ∧ same s' s) ∧
       (v ≠ 0 → v.toNat ≤ 65535 →
         (item = 1 → Answered s s' c 10 x 0 [] ∧ same s' { s with remoteTimeout := v.toNat }) ∧
         (item = 2 → Answered s s' c 10 x 0 [] ∧ same s' { s with startTimeout := v.toNat }) ∧
         (item = 3 → Answered s s' c 10 x 0 [] ∧ same s' { s with groupTimeout := v.toNat }))) ∧
   ∀ (s : State) (c : Cmd) (x : Session) (item v : Word), Turn s c 11 x → c.pay = [item, v] →
     ∃ s', exec (.configRead c) s = .next s' ∧ same s' s ∧
       (256 ≤ item.toNat ∨ v ≠ 0 → Answered s s' c 11 x 1 []) ∧
       (4 ≤ item.toNat → item.toNat < 256 → v = 0 → Answered s s' c 11 x 5 []) ∧
       (item.toNat < 4 → v = 0 → Answered s s' c 11 x 0 [BitVec.ofNat 32 (value item.toNat s), 0])) ∧
  ((∀ (s : State) (nonce : List Byte), s.ready = false → exec (.sessionNonce nonce) s = .next s) ∧
   (∀ (s : State) (nonce : List Byte), s.ready = true → s.linked = true → nonce.length = 48 →
     ∃ s' body sign, exec (.sessionNonce nonce) s = .next s' ∧ s'.nonces = s.nonces ++ [nonce] ∧
       s'.outbox = s.outbox ++ [.attestation (body ++ sign)] ∧
       leNat (body.take 4) = 0x00014C48 ∧ leNat ((body.drop 4).take 2) = s.secVersion % 2 ^ 16 ∧
       leNat ((body.drop 6).take 2) = bnum s.warm ∧ (body.drop 56).take 48 = nonce ∧ body.length = 208 ∧
       (body.drop 104).headD 0 = 4 ∧ sign.length = 96 ∧
       { s' with outbox := s.outbox, nonces := s.nonces, fresh := s.fresh } = s) ∧
   ∀ (s : State) (id : Nat) (g : Grant) (r : List (List Byte)) (n : List Byte), s.nonces = n :: r → s.ready = true → s.linked = true →
     s.sessions.length < 16 → PMap.get? s.sessions id = none →
     exec (.sessionGrant id g true) s = .next { s with nonces := r, sessions := PMap.set s.sessions id ⟨g, 0, false, [], []⟩ } ∧
     exec (.sessionGrant id g false) s = .next { s with nonces := r })

/-- R35, R37, R38, R86 to R89: PART_WRITE and PART_READ, PARTITION_CHANGE_EFFECTIVE; FREE_ROWS in both forms and
FREE_ROWS_APPLIED; ERROR_READ; EXPORT_WRITE and EXPORT_READ. A block that a change takes from its core is asked to stop, and the
reply comes when it has left. The model's choices: a COUNT of 0, a COUNT above 64 of EXPORT_READ and a FIRST above 1,023 of
ERROR_READ are REJECTED (entry 53); FREE_ROWS acts at once and FREE_ROWS_APPLIED brings its reply (entry 64). -/
def Obligations.TableCommands : Prop :=
  let same (s' s : State) : Prop := { s' with outbox := s.outbox, sessions := s.sessions } = s
  (∀ (s : State) (c : Cmd) (x : Session) (w e : Word), Turn s c 2 x → c.pay = [w, e] →
    let core := w.toNat
    let names : Bool := e.getLsbD 15
    let ctx := e.toNat % 256
    ∃ s', exec (.partWrite c) s = .next s' ∧
      (192 ≤ core ∨ 65536 ≤ e.toNat ∨ (names = true ∧ PMap.get? s.ctxs ctx = none) →
        Answered s s' c 2 x 1 [] ∧ same s' s) ∧
      (core < 192 → e.toNat < 65536 → (names = true → PMap.get? s.ctxs ctx ≠ none) → s.launches = [] →
        (s.core core).withdrawn = false →
        s'.partEntry core = (e.setWidth 16 &&& 0x80FF) ∧ (∀ k, k ≠ core → s'.partEntry k = s.partEntry k) ∧
        (s.block? core = none → (∀ p ∈ s.partPend, p.core ≠ core) → Answered s s' c 2 x 0 [] ∧ same s' { s with part := s'.part }) ∧
        ∀ b, s.block? core = some b →
          (names = true → ctx = b.ctx → (∀ p ∈ s.partPend, p.core ≠ core) →
            Answered s s' c 2 x 0 [] ∧ same s' { s with part := s'.part }) ∧
          (names = false ∨ ctx ≠ b.ctx → Held s s' c x ∧ s'.outbox = s.outbox ∧
            (∃ b', s'.block? core = some b' ∧ b'.stopping = true ∧ b'.giveUp = true) ∧
            ∀ t tm, t < 16 → s.team? core t = some tm → tm.status ≠ .exited → tm.status ≠ .killed →
              ∃ tm', s'.team? core t = some tm' ∧ tm'.stopReq = true))) ∧
  (∀ (s : State) (core : Nat) (p : PartChange) (x : Session), s.partPend.find? (fun q => q.core == core) = some p →
    (s.block? core ≠ none → exec (.partitionChangeEffective core) s = .next s) ∧
    (s.block? core = none → PMap.get? s.sessions p.cmd.sess = some x → HarbourIdle s →
      ∃ s', exec (.partitionChangeEffective core) s = .next s' ∧ Answered s s' p.cmd p.cmd.hdr.opc x 0 [] ∧
        s'.partPend = s.partPend.erase p ∧
        ((s.core core).lastCtx ≠ some (p.entry.toNat % 256) ∨ p.entry.getLsbD 15 = false →
          (s'.core core).l1 = [] ∧ (s'.core core).tlb = [] ∧ (s'.core core).lastCtx = none))) ∧
  (∀ (s : State) (c : Cmd) (x : Session) (w : Word), Turn s c 3 x → c.pay = [w, 0] →
    let first := w.toNat % 256
    let n := w.toNat / 256
    ∃ s', exec (.partRead c) s = .next s' ∧ same s' s ∧
      (n = 0 ∨ 192 < first + n → Answered s s' c 3 x 1 []) ∧
      (0 < n → first + n ≤ 192 → ∃ d, Answered s s' c 3 x 0 d ∧ d.length % 2 = 0 ∧
        ∀ i, i < n → (d.getD (i / 2) 0).toNat / 2 ^ (16 * (i % 2)) % 2 ^ 16 = (s.partEntry (first + i)).toNat)) ∧
  (∀ (s : State) (c : Cmd) (x : Session) (first n : Word) (set : Bool), Turn s c 4 x → c.pay = [first, n, BitVec.ofNat 32 (bnum set), 0] →
    let within (a : Nat) : Prop := first.toNat ≤ rbOf a ∧ rbOf a < first.toNat + n.toNat
    ∃ s', exec (if set then Instr.freeRowsSet c else .freeRowsClear c) s = .next s' ∧
      (n = 0 ∨ 1179648 < first.toNat + n.toNat → Answered s s' c 4 x 1 [] ∧ same s' s) ∧
      (n ≠ 0 → first.toNat + n.toNat ≤ 1179648 → Held s s' c x ∧ s'.outbox = s.outbox ∧ s'.freePend = s.freePend ++ [withOpc c 4] ∧
        (∀ a, s'.homeByte a = if set = true ∧ within a then 0 else s.homeByte a) ∧
        (∀ a, within a → s'.freeRows.contains (rowKey a) = set) ∧
        ∀ a, ¬within a → s'.freeRows.contains (rowKey a) = s.freeRows.contains (rowKey a))) ∧
  (∀ (s : State) (k : Cmd) (r : List Cmd) (x : Session), s.freePend = k :: r → PMap.get? s.sessions k.sess = some x → HarbourIdle s →
    ∃ s', exec .freeRowsApplied s = .next s' ∧ Answered s s' k k.hdr.opc x 0 [] ∧ same s' { s with freePend := r }) ∧
  (∀ (s : State) (c : Cmd) (x : Session) (k first : Word), Turn s c 5 x → c.pay = [k, first] →
    let l := (PMap.get? s.hbmRecs k.toNat).getD []
    let n := min 32 (l.length - first.toNat)
    ∃ s', exec (.errorRead c) s = .next s' ∧ same s' s ∧
      (8 ≤ k.toNat ∨ 1023 < first.toNat → Answered s s' c 5 x 1 []) ∧
      (k.toNat < 8 → first.toNat ≤ 1023 → ∃ d, Answered s s' c 5 x 0 (BitVec.ofNat 32 l.length :: BitVec.ofNat 32 n :: d) ∧
        d.length = 4 * n ∧ ∀ i r, i < n → l[first.toNat + i]? = some r → r.stack < 8 → r.kind < 8 → 64 * r.sector ≤ 0x8FFFFFFFFF →
          let v := leNat (wordsLe ((d.drop (4 * i)).take 4))
          let pa := 64 * r.sector
          v % 8 = r.stack ∧ v / 2 ^ 3 % 32 = pa / 2 ^ 14 % 16 * 2 + pa / 2 ^ 10 % 2 ∧ v / 2 ^ 8 % 2 = pa / 2 ^ 18 % 2 ∧
            v / 2 ^ 9 % 64 = rbOf pa % 48 ∧ v / 2 ^ 15 % 2 ^ 15 = rbOf pa / 48 ∧ v / 2 ^ 30 % 8 = pa / 2 ^ 7 % 8 ∧
            v / 2 ^ 33 % 8 = r.kind ∧
            v / 2 ^ 36 % 2 ^ 28 = 0 ∧ v / 2 ^ 64 % 2 ^ 16 = min r.count 65535 ∧ v / 2 ^ 80 % 2 ^ 16 = 0 ∧
            v / 2 ^ 96 = r.time % 2 ^ 32)) ∧
  (∀ (s : State) (c : Cmd) (x : Session) (i lo hi : Word), Turn s c 6 x → c.pay = [i, 0, lo, hi] →
    ∃ s', exec (.exportWrite c) s = .next s' ∧
      (1024 ≤ i.toNat → Answered s s' c 6 x 1 [] ∧ same s' s) ∧
      (i.toNat < 1024 → Answered s s' c 6 x 0 [] ∧ same s' { s with exports := s'.exports } ∧
        PMap.get? s'.exports i.toNat = some (((hi ++ lo) &&& 0xC7FFFFFFFFFFFFFF#64 : DWord)) ∧
        ∀ k, k ≠ i.toNat → PMap.get? s'.exports k = PMap.get? s.exports k)) ∧
  ∀ (s : State) (c : Cmd) (x : Session) (first n : Word), Turn s c 7 x → c.pay = [first, n] →
    ∃ s', exec (.exportRead c) s = .next s' ∧ same s' s ∧
      (n = 0 ∨ 64 < n.toNat ∨ 1024 < first.toNat + n.toNat → Answered s s' c 7 x 1 []) ∧
      (0 < n.toNat → n.toNat ≤ 64 → first.toNat + n.toNat ≤ 1024 → ∃ d, Answered s s' c 7 x 0 d ∧ d.length = 2 * n.toNat ∧
        ∀ i, i < n.toNat → d.getD (2 * i + 1) 0 ++ d.getD (2 * i) 0 = (PMap.get? s.exports (first.toNat + i)).getD 0)

/-- R90, R92, R93, R103, R105: GROUP_CREATE registers the group with the switches and is answered when GROUP_REGISTERED says so;
GROUP_DESTROY withdraws it, and ends every COLL in flight on it with a record of the device's own. CTX_CREATE makes a context with the fields of Table 5.14 and LASTGEN 0; CTX_DESTROY leaves
no block of it on the device, resident, saved or waiting, no range task, no armed launch (R104: a context has one at most), no
group, partition entry, TLB entry, walk or walker entry; its export entries stay, and a started launch stays until its other
participants have ended (the model's choice, entries 42 and 54). -/
def Obligations.GroupAndContextCommands : Prop :=
  let same (s' s : State) : Prop := { s' with outbox := s.outbox, sessions := s.sessions } = s
  (∀ (s : State) (c : Cmd) (x : Session) (a b : Word), Turn s c 8 x → c.pay = [a, b, 0, 0] →
    let f (w : Word) (lo n : Nat) : Nat := w.toNat / 2 ^ lo % 2 ^ n
    let good : Prop := f a 14 2 = 0 ∧ f a 22 10 = 0 ∧ f b 7 9 = 0 ∧ f b 27 5 = 0 ∧ f a 12 2 ≠ 3 ∧ 1 ≤ f b 0 7 ∧ f b 0 7 ≤ 64 ∧
      f a 16 6 < f b 0 7 ∧ 1 ≤ f b 16 11 ∧ f b 16 11 ≤ (if f a 12 2 = 1 then 512 else 1024) ∧
      PMap.get? s.groups (f a 0 12) = none ∧ PMap.get? s.ctxs c.hdr.ctx.toNat ≠ none
    ∃ s', exec (.groupCreate c) s = .next s' ∧ (¬good → Answered s s' c 8 x 1 [] ∧ same s' s) ∧
      (good → Held s s' c x ∧ s'.outbox = s.outbox ++ [.groupRegister (f a 0 12)] ∧ same s' { s with groups := s'.groups } ∧
        PMap.get? s'.groups (f a 0 12) =
          some ⟨c.hdr.ctx.toNat, f a 12 2, f a 16 6, f b 0 7, f b 16 11, 0, false, withOpc c 8⟩ ∧
        ∀ k, k ≠ f a 0 12 → PMap.get? s'.groups k = PMap.get? s.groups k)) ∧
  (∀ (s : State) (group : Nat) (g : RedGroup) (x : Session), PMap.get? s.groups group = some g → g.ready = false →
    PMap.get? s.sessions g.cmd.sess = some x → HarbourIdle s →
    (∃ s', exec (.groupRegistered group true) s = .next s' ∧ Answered s s' g.cmd g.cmd.hdr.opc x 0 [] ∧
      PMap.get? s'.groups group = some { g with ready := true, round := 0 } ∧ same s' { s with groups := s'.groups }) ∧
    ∃ s', exec (.groupRegistered group false) s = .next s' ∧ Answered s s' g.cmd g.cmd.hdr.opc x 5 [] ∧
      PMap.get? s'.groups group = none ∧ same s' { s with groups := s'.groups }) ∧
  (∀ (s : State) (c : Cmd) (x : Session) (group : Word), Turn s c 9 x → c.pay = [group, 0] →
    ∃ s', exec (.groupDestroy c) s = .next s' ∧
      ((∀ g, PMap.get? s.groups group.toNat = some g → g.ready = false ∨ g.ctx ≠ c.hdr.ctx.toNat) →
        Answered s s' c 9 x 1 [] ∧ same s' s) ∧
      ∀ g, group.toNat < 4096 → PMap.get? s.groups group.toNat = some g → g.ready = true → g.ctx = c.hdr.ctx.toNat →
        Answered { s with outbox := s.outbox ++ [.groupWithdraw group.toNat] } s' c 9 x 0 [] ∧
        PMap.get? s'.groups group.toNat = none ∧
        ((∀ p ∈ s.teams, ∀ k ∈ p.2.colls, k.group ≠ group.toNat) → same s' { s with groups := s'.groups }) ∧
        (∀ n tm, PMap.get? s'.teams n = some tm → ∀ k ∈ tm.colls, k.group ≠ group.toNat) ∧
        ∀ n tm k, s.teams = [(n, tm)] → tm.colls = [k] → k.group = group.toNat → k.rec_ % 16 = 0 →
          ∀ a, s'.homeByte a = if k.rec_ ≤ a ∧ a < k.rec_ + 16 then (collRecord 1 k.round (2 ^ 64 - 1)).getD (a - k.rec_) 0
            else s.homeByte a) ∧
  (∀ (s : State) (c : Cmd) (x : Session) (w : List Word), Turn s c 12 x → c.pay = w → w.length = 12 →
    let pair (i : Nat) : DWord := w.getD (i + 1) 0 ++ w.getD i 0
    let one (i : Nat) : Nat := (w.getD i 0).toNat
    let good : Prop := PMap.get? s.ctxs c.hdr.ctx.toNat = none ∧ (pair 0).toNat % 8192 = 0 ∧ (pair 0).toNat ≤ 0x8FFFFFE000 ∧
      (pair 2).toNat < 2 ^ 56 ∧ (pair 2).toNat % 4 = 0 ∧ (pair 4).toNat % 32 = 0 ∧ (pair 4).toNat < 2 ^ 56 ∧
      (pair 6).toNat % 65536 = 0 ∧ 1 ≤ one 8 ∧ one 8 ≤ 192 ∧ (pair 6).toNat + one 8 * 3670016 ≤ 0x9000000000 ∧ one 9 ≤ 10000 ∧
      one 10 = 0 ∧ one 11 = 0
    ∃ s', exec (.ctxCreate c) s = .next s' ∧ (¬good → Answered s s' c 12 x 1 [] ∧ same s' s) ∧
      (good → Answered s s' c 12 x 0 [] ∧ same s' { s with ctxs := s'.ctxs } ∧
        PMap.get? s'.ctxs c.hdr.ctx.toNat =
          some ⟨pair 0, pair 2, pair 4, pair 6, one 8, if one 9 = 0 then 100 else one 9, 0⟩ ∧
        ∀ k, k ≠ c.hdr.ctx.toNat → PMap.get? s'.ctxs k = PMap.get? s.ctxs k)) ∧
  ∀ (s : State) (c : Cmd) (x : Session), Turn s c 13 x → c.pay = [0, 0] →
    let ctx := c.hdr.ctx.toNat
    ∃ s', exec (.ctxDestroy c) s = .next s' ∧
      (PMap.get? s.ctxs ctx = none → Answered s s' c 13 x 1 [] ∧ same s' s) ∧
      (PMap.get? s.ctxs ctx ≠ none →
        OutMsg.reply c.sess { c.hdr with opc := 13, len := 8 } [0, 0] ∈ s'.outbox ∧ PMap.get? s'.ctxs ctx = none ∧
        (∀ k b, s'.block? k = some b → b.ctx ≠ ctx) ∧ (∀ k ∈ s'.saved, k.block.ctx ≠ ctx) ∧
        (∀ k g, PMap.get? s'.groups k = some g → g.ctx ≠ ctx) ∧
        (∀ k, (s'.partEntry k).getLsbD 15 = true → (s'.partEntry k).toNat % 256 ≠ ctx) ∧
        (∀ k va, s'.tlbHit k ctx va = none) ∧ (∀ p ∈ s'.ptrs, ∀ e ∈ p.2, e.ctx ≠ ctx) ∧ (∀ k ∈ s'.walks, k.ctx ≠ ctx) ∧
        (∀ k l, PMap.get? s'.launches k = some l → l.ctx = ctx → l.waiting = []) ∧
        ((s.launches.filter fun p => p.2.ctx == ctx && p.2.started.isNone).length ≤ 1 →
          ∀ k l, PMap.get? s'.launches k = some l → l.ctx = ctx → l.started ≠ none) ∧
        (∀ k ∈ s'.tasks, ∀ l, PMap.get? s'.launches k.launch = some l → l.ctx ≠ ctx) ∧ s'.exports = s.exports ∧
        ∀ k, k ≠ ctx → PMap.get? s'.ctxs k = PMap.get? s.ctxs k)

/-- R102 to R104, R362 to R364, R404: a LAUNCH whose checks pass arms the root and is forwarded to the other participants; with one
participant it starts at once. A packet forwarded arms or is refused; ARMED from all starts, a refusal or START_TIMEOUT aborts
with the mask of the ranks that did not arm, and so does an ARMED that comes when START_TIMEOUT is past (entry 54); START sets LASTGEN, ABORT disarms, KILL_REPORT is forwarded, and the last END_MESSAGE
brings the completion report. R373: GRID_BARRIER_MESSAGE is one more arrival. The model's choices: the order of the checks (entry
17), the messages between participants as events, none of them while no port has its link (entry 2), a LAUNCH that finds another
of its context armed waits (entry 54). A started launch of a context destroyed since takes no message of a new one of the same
context and generation. -/
def Obligations.LaunchMessages : Prop :=
  let same (s' s : State) : Prop := { s' with outbox := s.outbox, sessions := s.sessions } = s
  let armed (s : State) (root : Bool) (ctx : Nat) (gen : Word) (k : Nat) (l : Launch) : Prop :=
    s.launches.find? (fun p => (p.2.rank == 0) == root && p.2.started.isNone && p.2.ctx == ctx && p.2.gen == gen) = some (k, l) ∧
      PMap.get? s.launches k = some l
  let awaits (s : State) (ctx dev : Nat) (gen : Word) (k : Nat) (l : Launch) (r : Nat) : Prop := l.rankOf dev = some r ∧
    s.launches.find? (fun p => p.2.rank == 0 && p.2.started.isSome && p.2.ctx == ctx && p.2.gen == gen && p.2.awaits dev) = some (k, l) ∧
      PMap.get? s.launches k = some l
  let running (s' : State) (k : Nat) (l : Launch) : Prop := ∃ n l', PMap.get? s'.launches k = some l' ∧
    l' = { l with started := some n, waiting := l.ownBlocks, armedBy := l'.armedBy } ∧
    ∀ x, PMap.get? s'.ctxs l.ctx = some x → x.lastGen = l.gen
  let aborted (s s' : State) (k : Nat) (l : Launch) (lost : List Nat) : Prop :=
    let mask := ((List.range l.parties.length).map fun r => if r ∈ l.armedBy ∧ r ∉ lost then 0 else 2 ^ r).sum
    PMap.get? s'.launches k = none ∧ s'.ctxs = s.ctxs ∧ s'.outbox = s.outbox ++ (l.others.map fun p => .abort p.1 p.2 l.gen) ++
      [.reply l.sess { l.hdr with len := 16 } [4, 0, BitVec.ofNat 32 mask, BitVec.ofNat 32 (mask / 2 ^ 32)]]
  (∀ (s : State) (c : Cmd) (x : Session), Turn s c 1 x →
    (parsePacket (cmdWords c) = none →
      ∃ s', exec (.launch c) s = .next s' ∧ Answered s s' c 1 x 1 [] ∧ same s' s) ∧
    ∀ p own others, parsePacket (cmdWords c) = some p → p.parties = own :: others →
      (s.deviceId ≠ some own.1 ∨ own.2 ≠ c.hdr.ctx.toNat →
        ∃ s', exec (.launch c) s = .next s' ∧ Answered s s' c 1 x 1 [] ∧ same s' s) ∧
      (s.deviceId = some own.1 → own.2 = c.hdr.ctx.toNat →
        (PMap.get? s.ctxs own.2 = none → ∃ s', exec (.launch c) s = .next s' ∧ Answered s s' c 1 x 1 [] ∧ same s' s) ∧
        ∀ k, PMap.get? s.ctxs own.2 = some k →
          ((∀ n, n < 192 → s.allotted n own.2 = false) →
            ∃ s', exec (.launch c) s = .next s' ∧ Answered s s' c 1 x 2 [] ∧ same s' s) ∧
          (∀ n, n < 192 → s.allotted n own.2 = true →
            (p.gen = k.lastGen ∨ 2 ^ 31 ≤ (p.gen - k.lastGen).toNat →
              ∃ s', exec (.launch c) s = .next s' ∧ Answered s s' c 1 x 3 [] ∧ same s' s) ∧
            (p.gen ≠ k.lastGen → (p.gen - k.lastGen).toNat < 2 ^ 31 → s.armedIn own.2 = true →
              ∃ s', exec (.launch c) s = .next s' ∧ s'.armWait = [.launch (withOpc c 1)] ∧ s'.outbox = s.outbox)) ∧
          ∀ s1 l, s.vet p own.2 0 c.sess { c.hdr with opc := 1 } = (s1, .arm l) →
            l.ctx = own.2 ∧ l.gen = p.gen ∧ l.rank = 0 ∧ l.parties = p.parties ∧ l.teams = p.teams ∧ l.blocks = p.blocks ∧
            l.arg = p.arg ∧ l.prio = p.prio ∧ p.agrees l.rec_ p.shape = true ∧
            ∃ s', exec (.launch c) s = .next s' ∧ (∀ a, s'.homeByte a = s.homeByte a) ∧
              (others = [] → running s' s1.newLaunch l ∧
                s'.outbox = s.outbox ++ [.reply c.sess { c.hdr with opc := 1, len := 8 } [0, 0]]) ∧
              (others ≠ [] → PMap.get? s'.launches s1.newLaunch = some l ∧ l.started = none ∧
                s'.outbox = s.outbox ++ others.map fun q => .forward q.1 (cmdWords c)) ∧
              ∃ x', PMap.get? s'.sessions c.sess = some x' ∧ x'.next = (x.next + 1) % 2 ^ 32)) ∧
  (∀ (s : State) (root : Nat) (w : List Word) (p : Packet) (rank : Nat) (own : Nat × Nat), parsePacket w = some p → HarbourIdle s → s.ready = true →
    0 < rank → p.parties[rank]? = some own → s.deviceId = some own.1 → (∀ r o, p.parties[r]? = some o → o.1 = own.1 → r = rank) →
    let rc := (p.parties.headD (0, 0)).2
    (∀ s1 n, s.vet p own.2 rank 0 ⟨0, 0, 0, 0, 0⟩ = (s1, .refuse n) →
      ∃ s', exec (.launchForward root w) s = .next s' ∧ s'.launches = s.launches ∧
        s'.outbox = s.outbox ++ [.refusal root rc p.gen n]) ∧
    ∀ s1 l, s.vet p own.2 rank 0 ⟨0, 0, 0, 0, 0⟩ = (s1, .arm l) →
      ∃ s', exec (.launchForward root w) s = .next s' ∧ PMap.get? s'.launches s1.newLaunch = some l ∧ l.started = none ∧
        s'.outbox = s.outbox ++ [.armed root rc p.gen]) ∧
  (∀ (s : State) (ctx dev : Nat) (gen : Word) (k : Nat) (l : Launch) (r : Nat) (x : Session), HarbourIdle s → armed s true ctx gen k l →
    PMap.get? s.sessions l.sess = some x → l.rankOf dev = some r →
    let due := l.armedAt + s.startTimeout * Config.cyclesPerMs
    (due ≤ s.cycle → ∃ s', exec (.armed ctx dev gen) s = .next s' ∧ aborted s s' k l []) ∧
    (s.cycle < due → r ∉ l.armedBy →
      ∃ s', exec (.armed ctx dev gen) s = .next s' ∧
        ((∃ q, q < l.parties.length ∧ q ≠ r ∧ q ∉ l.armedBy) →
          same s' { s with launches := s'.launches } ∧ s'.outbox = s.outbox ∧
          PMap.get? s'.launches k = some { l with armedBy := r :: l.armedBy }) ∧
        ((∀ q, q < l.parties.length → q ≠ r → q ∈ l.armedBy) → l.ownBlocks ≠ [] → running s' k l ∧
          s'.outbox = s.outbox ++ (l.others.map fun p => .start p.1 p.2 l.gen) ++
            [.reply l.sess { l.hdr with len := 8 } [0, 0]])) ∧
    (∀ n, ∃ s', exec (.participantRefusal ctx dev gen n) s = .next s' ∧
      aborted s s' k l (if due ≤ s.cycle then [] else [r])) ∧
    (s.cycle < due → exec (.startTimeout ctx gen) s = .next s) ∧
    (due ≤ s.cycle →
      ∃ s', exec (.startTimeout ctx gen) s = .next s' ∧ aborted s s' k l [])) ∧
  (∀ (s : State) (ctx : Nat) (gen : Word) (k : Nat) (l : Launch), HarbourIdle s → armed s false ctx gen k l →
    (l.ownBlocks ≠ [] → ∃ s', exec (.start ctx gen) s = .next s' ∧ running s' k l ∧ s'.outbox = s.outbox) ∧
    ∃ s', exec (.abort ctx gen) s = .next s' ∧ PMap.get? s'.launches k = none ∧ s'.ctxs = s.ctxs ∧ s'.outbox = s.outbox) ∧
  (∀ (s : State) (ctx : Nat) (gen : Word) (k : Nat) (l : Launch) (r : Nat) (words : List Word), s.linked = true →
    awaits s ctx ((words.getD 8 0).toNat % 2 ^ 13) gen k l r →
    exec (.killReport ctx gen words) s =
      .next { s with outbox := s.outbox ++ [.report l.sess 1 l.hdr.ctx.toNat l.hdr.seq l.hdr.tag words] }) ∧
  (∀ (s : State) (ctx dev : Nat) (gen : Word) (k : Nat) (l : Launch) (r killed : Nat), s.linked = true → awaits s ctx dev gen k l r →
    0 < r ∧ r ∉ l.endedBy ∧
    ∃ s', exec (.endMessage ctx dev gen killed) s = .next s' ∧
      ((∃ q, q < l.parties.length ∧ q ≠ r ∧ q ∉ l.endedBy) → s'.outbox = s.outbox ∧
        PMap.get? s'.launches k = some { l with endedBy := r :: l.endedBy, killedAll := l.killedAll + killed }) ∧
      ((∀ q, q < l.parties.length → q ≠ r → q ∈ l.endedBy) → PMap.get? s'.launches k = none ∧
        (l.dead = false → s'.outbox = s.outbox ++ [.report l.sess 1 l.hdr.ctx.toNat l.hdr.seq l.hdr.tag
          [0, 2, l.gen, BitVec.ofNat 32 (l.killed + l.killedAll + killed)]]))) ∧
  ∀ (s : State) (ctx nb : Nat) (gen : Word) (k : Nat) (l : Launch) (b : Barrier), s.linked = true →
    s.launches.find? (fun p => p.2.ctx == ctx && p.2.gen == gen && !p.2.dead) = some (k, l) → PMap.get? s.grid (gridKey k nb) = some b →
    ∃ s', exec (.gridBarrierMessage ctx gen nb) s = .next s' ∧ (∀ a, s'.homeByte a = s.homeByte a) ∧
      PMap.get? s'.grid (gridKey k nb) = some (if b.count ≤ b.arrived + 1 then { b with arrived := 0, phase := b.phase + 1 }
        else { b with arrived := b.arrived + 1 }) ∧
      ∀ q, q ≠ gridKey k nb → PMap.get? s'.grid q = PMap.get? s.grid q

/-- R79, R83, R420, R421: right after reset the device is not ready and does nothing of its own; no session, context, partition
entry, export, group, launch, block, team, cached byte or translation exists, every byte of main memory reads one value, no
sector is poisoned and no row declared free, and the fabric configuration stands at its defaults. The model's choices: the one
value that memory reads (entry 3), and empty maps of free rows, partition and exports (entry 5). -/
def Obligations.ResetState : Prop :=
  let s := State.reset
  s.ready = false ∧ s.warm = false ∧ s.cycle = 0 ∧ s.deviceId = none ∧ s.remoteTimeout = 20 ∧ s.startTimeout = 100 ∧
  s.groupTimeout = 20 ∧ s.sessions = [] ∧ s.ctxs = [] ∧ s.launches = [] ∧ s.saved = [] ∧ s.part = [] ∧ s.exports = [] ∧
  s.groups = [] ∧ (∀ c, s.block? c = none) ∧ (∀ c t, s.team? c t = none) ∧ s.l2 = [] ∧ s.poison = [] ∧ s.freeRows = [] ∧
  s.l2Lines = [] ∧ s.hbmReqs = [] ∧ s.hbmWait = [] ∧ s.walks = [] ∧ s.xinvs = [] ∧ s.remote = [] ∧ MemWf s ∧ (∀ a b, s.homeByte a = s.homeByte b) ∧
  ∀ c, (s.core c).tlb = [] ∧ (s.core c).l1 = [] ∧ (s.core c).order = [] ∧ (s.core c).held = [] ∧ (s.core c).spares = 2

/-- Memory keeps its canonical form through every step, whoever moves: two memories that read alike are one list. -/
def Obligations.StepKeepsMemory : Prop := ∀ s t : State, Goes s t → MemWf s → MemWf t

/-- Tables 3.1 to 3.11, 14.2: every instruction with legal operands that has a word is what the decoder reads from that word, with
every operand. -/
def Obligations.DecodeEncode : Prop := ∀ (i : Instr) (w : Word), i.legal = true → encode i = [w] → decode w = .ok i

/-- R42: no bit of a word is without meaning: a word the decoder accepts is the word of the instruction read from it, so a field
the instruction does not use is zero and a word that no table assigns is refused. -/
def Obligations.DecodeLosesNothing : Prop := ∀ (i : Instr) (w : Word), decode w = .ok i → encode i = [w]

/-- R5, R40, R57: words written out bit by bit from Tables 3.1 to 3.11 decode to their instructions, and words that no table
assigns to none. -/
def Obligations.DecodeWords : Prop :=
  decode 0b000001_000011_000011_110011_00101_0_0_0#32 = .ok (.divu ⟨.v 3, .v 3, .s 3, false, false, false⟩) ∧
  decode 0b001000_000100_000100_000000000001_0_0#32 = .ok (.addImm ⟨.v 4, .v 4, 1, false, false⟩) ∧
  decode 0b000011_000001_000011_111111_00000_0_0_0#32 = .ok (.cmp 1 .eq (.v 3) .zero false false) ∧
  decode 0b101010_111111111111111111101_001_0_1#32 = .ok (.refill ⟨BitVec.ofInt 21 (-3), 1, false⟩) ∧
  decode 0b001100_111111_000001_000000000010_1_0#32 = .ok (.shlImm ⟨.zero, .v 1, 2, true, false⟩) ∧
  decode 0b111111_0011_000000000000000000001_0#32 = .ok (.advCache .stream) ∧
  decode 0b010000_000111_000001_111000_00011_1_0_1#32 = .ok (.ffma ⟨.v 7, .v 1, .e 0, true, true⟩) ∧
  decode 0b010110_000010_110111_000000_00000_0_0_0#32 = .ok (.rcp ⟨.v 2, .s 7, false, false⟩) ∧
  decode 0b010111_110001_000101_000100_01010_0_0_0#32 = .ok (.red ⟨.s 1, .v 5, .maxu, false, false⟩) ∧
  decode 0b011010_000101_000110_0010_00000011_1_0#32 = .ok (.ldcW ⟨.v 5, .v 6, 2, 3, false⟩) ∧
  decode 0b100010_000101_000110_0000_00000001_1_1#32 = .ok (.stW ⟨.v 5, .v 6, 1, true, true⟩) ∧
  decode 0b100101_000010_000100_000110_00111_0_1_1#32 = .ok (.atom ⟨.v 2, .v 4, .v 6, false, true, true⟩ .cas) ∧
  decode 0b100111_000000_110010_000000_00000_0_0_0#32 = .ok (.tcopy (.s 2) false) ∧
  decode 0b101100_000010_000000_000000000011_0_0#32 = .ok (.barSync 3 false) ∧
  decode 0b101011_000000_000000_000000_00100_0_0_1#32 = .ok (.exit) ∧
  decode 0b101101_000000_000000_0000000101_000_1#32 = .ok (.trap 5 true) ∧
  decode 0b101101_110000_000000_0000100000_100_0#32 = .ok (.sysr (.s 0) 32 false) ∧
  decode 0b110000_000000_000101_000000_0000000_1#32 = .ok (.bfw 5 true) ∧
  decode 0b000110_000000_000000_000000_00000_0_0_0#32 = .error .unassignedMajor ∧
  decode 0b111111_1111_000000000000000000000_0#32 = .error .unassignedCode ∧
  decode 0b000000_000001_000010_000011_01111_0_0_0#32 = .error .unusedField ∧
  decode 0b101011_000000_000000_000000_00100_0_0_0#32 = .error .mustStop

/-- R5, R40, R115, R250: a step runs the next move. The move of a team that no replay holds (R123), and whose REFILL has no draw left, runs the instruction that the four bytes at its pc decode to, low
byte first, read through a leaf that its core holds and that allows the fetch; a sequencer's the one at its stream position;
an event's its own. Nothing is done around it but the actor named, the datapath's slot taken, and the sector made ready at its
home. The last clause is of the model's own placement (entry 18): `withFetchWord` puts a word, with a team, its block and a page
that maps it, where the next step fetches, so that this step runs the instruction of the word. -/
def Obligations.StepRunsTheWord : Prop :=
  let word (s : State) (a : Nat) : Word := BitVec.ofNat 32 (leNat (s.homeBytes a 4))
  let fetched (s : State) (c : Nat) (pc : DWord) (p1 : Bool) (a : Nat) : Prop := pc.toNat % 4 = 0 ∧ pc.toNat < 2 ^ 56 ∧
    ∃ e pa, s.tlbHit c (s.ctxOf c) pc.toNat = some e ∧ s.leafAccess e pc.toNat .fetch p1 = .ok pa ∧
      s.route pa = .local_ a
  (∀ (s : State) (i : Instr) (r : List Move), s.sched = .event i :: r → step s = exec i { s with sched := r }) ∧
  (∀ (s : State) (c t a : Nat) (r : List Move) (tm : Team) (i : Instr), s.sched = .team c t :: r → s.team? c t = some tm →
    let s1 := (({ s with sched := r, cur := ⟨c, t⟩ } : State).modCore c fun x => { x with slot := 4 * s.cycle + t % 4 + 1 }).homeRead c (a / 64)
    tm.status = .live → (∃ n, PMap.get? (s.core c).dps (t % 4) = some ⟨some t, none, n⟩) → (s.core c).slot ≤ 4 * s.cycle + t % 4 →
    tm.p1 = true ∨ s.replayingAny c t = false → tm.ending = false ∨ tm.p1 = true → (tm.left.cause = .range → tm.p1 = true) →
    tm.advs ≠ [] ∨ s.phaseStop c tm ≠ some tm.pc →
    fetched s c tm.pc tm.p1 a → s1.poisoned (a / 64) = false → isStream (word s a) = false → decode (word s a) = .ok i →
    step s = exec i s1) ∧
  (∀ (s : State) (c a : Nat) (r : List Move) (b : Block) (i : Instr), s.sched = .seq c :: r → s.block? c = some b →
    let s1 := ({ s with sched := r, cur := ⟨c, 0⟩ } : State).homeRead c (a / 64)
    b.seq.ended = false → b.seq.last = false → b.seq.trap = none → b.stopping = false →
    fetched s c b.seq.pc false a → s1.poisoned (a / 64) = false → isStream (word s a) = true → decode (word s a) = .ok i →
    step s = exec i s1) ∧
  ∀ (s : State) (w : Word) (i : Instr), decode w = .ok i →
    ∃ s0, step (s.withFetchWord 32 w.toNat) = exec i s0 ∧ s0.cur = ⟨0, 0⟩

/-- R198, R215, R224 to R231, R345, R382, R383: the packed words, CVT, DOT4.SH, DOT4.I8, MAXE, SCALEE, SETIX, SETSIX, LPAD, HEART
and YIELD complete: with the checks of R60 passed, and for DOT4.SH the scale bytes' registers sound and awaited by nothing, each answers a next state,
in which the team is live and stands at the next word, no flag and no uniform register but a destination has changed, and nothing
of the rest of the device has. R67 to R76, R118, R140: the steps of the stacks' controllers, of the walkers and of a window's reply
complete in every state, with every byte that main memory reads as before. -/
def Obligations.FormsComplete : Prop :=
  let goesOn (i : Instr) (z : Bool) (us : List Use) (d : Opd) (p : Team → Prop) : Prop :=
    ∀ s c t tm, Ready s c t tm i z .no us → p tm → ∃ s' tm', exec i s = .next s' ∧ s'.team? c t = some tm' ∧
      tm'.status = .live ∧ tm'.pc = tm.pc + 4 ∧ tm'.act = tm.act ∧ SameFlags tm tm' ∧
      ((∀ k, d ≠ .s k) → ∀ r, tm'.uniHeld r = tm.uniHeld r) ∧ OnlyTeam s s' c t
  let always (_ : Team) : Prop := True
  (∀ f : AB, (∀ i ∈ [Instr.hadd2 f, .badd2 f, .hmul2 f, .bmul2 f, .maxe f, .scalee f],
      goesOn i f.z [src1 f.a, src1 f.b, dstP f.d false] f.d always) ∧
    (∀ i ∈ [Instr.hfma2 f, .bfma2 f, .dot4I8 f], goesOn i f.z [src1 f.a, src1 f.b, src1 f.d, dstP f.d false] f.d always) ∧
    ∀ sel,
      goesOn (.dot4Sh f sel) f.z [src1 f.a, src1 f.b, boundN f.b 2, src1 f.d, dstP f.d false] f.d fun tm =>
        let src (_ : Team) (l : Nat) := [(scaleOpd f.b, 32 * (l / 32) + 8 * (l % 32 / 8))]
        tm.crossLock src = [] ∧ tm.crossLate src = none ∧ tm.crossUpset src = [] ∧ tm.crossBad src = []) ∧
  (∀ f r form, goesOn (.cvt f form r) f.z [srcP f.a (cvtPairs form).1, dstP f.d (cvtPairs form).2] f.d always) ∧
  (∀ a z, ∀ i ∈ [Instr.setix a z, .setsix a z, .heart a z], goesOn i z [srcOnce a] .zero always) ∧
  (∀ imm z, goesOn (.setixImm imm z) z [] .zero always) ∧ (∀ imm z, goesOn (.setsixImm imm z) z [] .zero always) ∧
  (∀ tag z, goesOn (.lpad tag z) z [] .zero always) ∧ (∀ z, goesOn (.yield z) z [] .zero always) ∧
  ∀ s : State, PMap.wf s.l2 = true → ∀ i : Instr,
    (∃ stack tag e, i = .hbmCompletion stack tag e) ∨ (∃ sector e, i = .patrolScrub sector e) ∨ (∃ at_, i = .rowDeclaredLasting at_) ∨
    (∃ stack row, i = .remapCopyDone stack row) ∨ (∃ stack bank, i = .refresh stack bank) ∨ (∃ k, i = .tableWalkDone k) ∨
    (∃ c t, i = .windowLdpReply c t) →
    ∃ s', exec i s = .next s' ∧ ∀ a, s'.homeByte a = s.homeByte a
end

