-- ==== Sys2Proof/Laws/Map.lean ====
section
/-! SUPPORT. The laws of finite maps: a read after a write, after a change, after a removal; the canonical
form is kept. -/

namespace Sys2Proof

variable {α : Type}

theorem PMap.get?_set (m : PMap α) (j : Nat) (y : α) (k : Nat) :
    PMap.get? (PMap.set m j y) k = if k = j then some y else PMap.get? m k := by
  induction m with
  | nil => simp [PMap.set, PMap.get?]
  | cons p m ih =>
    obtain ⟨q, x⟩ := p
    simp only [PMap.set]
    split
    · simp [PMap.get?]
    · split
      · subst_vars; simp only [PMap.get?]; split <;> rfl
      · simp only [PMap.get?, ih]
        by_cases h : k = q
        · subst h; rw [if_pos rfl, if_pos rfl, if_neg (by omega)]
        · simp [h]

@[simp] theorem PMap.get?_set_self (m : PMap α) (j : Nat) (y : α) : PMap.get? (PMap.set m j y) j = some y := by
  simp [PMap.get?_set]

theorem PMap.get?_set_ne (m : PMap α) {j k : Nat} (y : α) (h : k ≠ j) :
    PMap.get? (PMap.set m j y) k = PMap.get? m k := by simp [PMap.get?_set, h]

theorem PMap.get?_modify (m : PMap α) (j : Nat) (f : α → α) (k : Nat) :
    PMap.get? (PMap.modify m j f) k = if k = j then (PMap.get? m k).map f else PMap.get? m k := by
  induction m with
  | nil => simp [PMap.modify, PMap.get?]
  | cons p m ih =>
    obtain ⟨q, x⟩ := p
    simp only [PMap.modify, List.map_cons] at ih ⊢
    by_cases hq : q = j
    · subst hq
      rw [if_pos rfl]
      simp only [PMap.get?]
      by_cases hk : k = q
      · subst hk; rw [if_pos rfl, if_pos rfl, if_pos rfl]; rfl
      · rw [if_neg hk, if_neg hk, ih, if_neg hk, if_neg hk]
    · rw [if_neg hq]
      simp only [PMap.get?]
      by_cases hk : k = q
      · subst hk; rw [if_pos rfl, if_pos rfl, if_neg hq]
      · rw [if_neg hk, if_neg hk, ih]

theorem PMap.get?_filter (m : PMap α) (g : Nat → Bool) (k : Nat) :
    PMap.get? (m.filter fun p => g p.1) k = if g k then PMap.get? m k else none := by
  induction m with
  | nil => simp [PMap.get?]
  | cons p m ih =>
    obtain ⟨q, x⟩ := p
    by_cases hg : g q = true
    · rw [List.filter_cons_of_pos (by simpa using hg)]
      simp only [PMap.get?, ih]
      by_cases hk : k = q
      · subst hk; simp [hg]
      · simp [hk]
    · rw [List.filter_cons_of_neg (by simpa using hg), ih]
      by_cases hk : k = q
      · subst hk; simp [hg]
      · simp [PMap.get?, hk]

theorem PMap.get?_del (m : PMap α) (j k : Nat) :
    PMap.get? (PMap.del m j) k = if k = j then none else PMap.get? m k := by
  rw [PMap.del, PMap.get?_filter m (fun q => q != j)]
  by_cases h : k = j <;> simp [h]

/-- A fold of writes, one for each element of a list, under a key each. -/
theorem PMap.get?_foldl_set {β : Type} (l : List β) (key : β → Nat) (f : β → α) (m : PMap α) (k : Nat)
    (h : ∀ b ∈ l, key b ≠ k) :
    PMap.get? (l.foldl (fun m b => PMap.set m (key b) (f b)) m) k = PMap.get? m k := by
  induction l generalizing m with
  | nil => rfl
  | cons b l ih =>
    rw [List.foldl_cons, ih _ fun x hx => h x (List.mem_cons_of_mem _ hx),
      PMap.get?_set_ne _ _ fun e => h b (List.mem_cons_self) e.symm]

/-! The canonical form. -/

/-- Keys rise, said of the whole list. -/
theorem PMap.wf_iff (m : PMap α) : PMap.wf m = true ↔ m.Pairwise fun p q => p.1 < q.1 := by
  induction m with
  | nil => simp [PMap.wf]
  | cons p m ih =>
    cases m with
    | nil => simp [PMap.wf]
    | cons q m =>
      obtain ⟨k, x⟩ := p
      obtain ⟨l, y⟩ := q
      rw [PMap.wf, Bool.and_eq_true, decide_eq_true_iff, ih, List.pairwise_cons (a := (k, x))]
      constructor
      · rintro ⟨h, hm⟩
        refine ⟨fun r hr => ?_, hm⟩
        rcases List.mem_cons.mp hr with rfl | hr
        · exact h
        · exact Nat.lt_trans h ((List.pairwise_cons.mp hm).1 r hr)
      · rintro ⟨h, hm⟩
        exact ⟨h _ List.mem_cons_self, hm⟩

theorem PMap.mem_set {m : PMap α} {j : Nat} {y : α} {p : Nat × α} (h : p ∈ PMap.set m j y) :
    p = (j, y) ∨ p ∈ m := by
  induction m with
  | nil => exact .inl (by simpa [PMap.set] using h)
  | cons q m ih =>
    obtain ⟨k, x⟩ := q
    rw [PMap.set] at h
    split at h
    · rcases List.mem_cons.mp h with h | h
      · exact .inl h
      · exact .inr h
    · split at h
      · subst_vars
        rcases List.mem_cons.mp h with h | h
        · exact .inl h
        · exact .inr (List.mem_cons_of_mem _ h)
      · rcases List.mem_cons.mp h with h | h
        · exact .inr (h ▸ List.mem_cons_self)
        · exact (ih h).imp id (List.mem_cons_of_mem _)

theorem PMap.set_wf {m : PMap α} (h : PMap.wf m = true) (j : Nat) (y : α) : PMap.wf (PMap.set m j y) = true := by
  rw [PMap.wf_iff] at h ⊢
  induction m with
  | nil => simp [PMap.set]
  | cons p m ih =>
    obtain ⟨k, x⟩ := p
    have hk := (List.pairwise_cons.mp h).1
    have hm := (List.pairwise_cons.mp h).2
    rw [PMap.set]
    split
    · rename_i hj
      refine List.pairwise_cons.mpr ⟨fun q hq => ?_, h⟩
      rcases List.mem_cons.mp hq with rfl | hq
      · exact hj
      · exact Nat.lt_trans hj (hk q hq)
    · split
      · subst_vars
        exact List.pairwise_cons.mpr ⟨hk, hm⟩
      · refine List.pairwise_cons.mpr ⟨fun q hq => ?_, ih hm⟩
        rcases PMap.mem_set hq with rfl | hq
        · show k < j; omega
        · exact hk q hq

theorem PMap.filter_wf {m : PMap α} (h : PMap.wf m = true) (g : Nat × α → Bool) : PMap.wf (m.filter g) = true := by
  rw [PMap.wf_iff] at h ⊢
  exact h.filter g

theorem PMap.del_wf {m : PMap α} (h : PMap.wf m = true) (j : Nat) : PMap.wf (PMap.del m j) = true :=
  PMap.filter_wf h _

end Sys2Proof
end

