-- ==== Sys2Proof/Laws/State.lean ====
section
/-! SUPPORT. The state's updates, field by field: one lemma for each field and each named update. -/

namespace Sys2Proof.Machine

variable (s : State)

/-! `State.setTeam` changes `teams` alone. -/

@[simp] theorem State.setTeam_sched (c t : Nat) (x : Team) : (s.setTeam c t x).sched = s.sched := rfl
@[simp] theorem State.setTeam_ecc (c t : Nat) (x : Team) : (s.setTeam c t x).ecc = s.ecc := rfl
@[simp] theorem State.setTeam_cur (c t : Nat) (x : Team) : (s.setTeam c t x).cur = s.cur := rfl
@[simp] theorem State.setTeam_fresh (c t : Nat) (x : Team) : (s.setTeam c t x).fresh = s.fresh := rfl
@[simp] theorem State.setTeam_cycle (c t : Nat) (x : Team) : (s.setTeam c t x).cycle = s.cycle := rfl
@[simp] theorem State.setTeam_epoch (c t : Nat) (x : Team) : (s.setTeam c t x).epoch = s.epoch := rfl
@[simp] theorem State.setTeam_ready (c t : Nat) (x : Team) : (s.setTeam c t x).ready = s.ready := rfl
@[simp] theorem State.setTeam_warm (c t : Nat) (x : Team) : (s.setTeam c t x).warm = s.warm := rfl
@[simp] theorem State.setTeam_secVersion (c t : Nat) (x : Team) : (s.setTeam c t x).secVersion = s.secVersion := rfl
@[simp] theorem State.setTeam_fwDigest (c t : Nat) (x : Team) : (s.setTeam c t x).fwDigest = s.fwDigest := rfl
@[simp] theorem State.setTeam_images (c t : Nat) (x : Team) : (s.setTeam c t x).images = s.images := rfl
@[simp] theorem State.setTeam_fuseMin (c t : Nat) (x : Team) : (s.setTeam c t x).fuseMin = s.fuseMin := rfl
@[simp] theorem State.setTeam_deviceId (c t : Nat) (x : Team) : (s.setTeam c t x).deviceId = s.deviceId := rfl
@[simp] theorem State.setTeam_remoteTimeout (c t : Nat) (x : Team) : (s.setTeam c t x).remoteTimeout = s.remoteTimeout := rfl
@[simp] theorem State.setTeam_startTimeout (c t : Nat) (x : Team) : (s.setTeam c t x).startTimeout = s.startTimeout := rfl
@[simp] theorem State.setTeam_groupTimeout (c t : Nat) (x : Team) : (s.setTeam c t x).groupTimeout = s.groupTimeout := rfl
@[simp] theorem State.setTeam_portsDown (c t : Nat) (x : Team) : (s.setTeam c t x).portsDown = s.portsDown := rfl
@[simp] theorem State.setTeam_unreachable (c t : Nat) (x : Team) : (s.setTeam c t x).unreachable = s.unreachable := rfl
@[simp] theorem State.setTeam_remote (c t : Nat) (x : Team) : (s.setTeam c t x).remote = s.remote := rfl
@[simp] theorem State.setTeam_sessions (c t : Nat) (x : Team) : (s.setTeam c t x).sessions = s.sessions := rfl
@[simp] theorem State.setTeam_nonces (c t : Nat) (x : Team) : (s.setTeam c t x).nonces = s.nonces := rfl
@[simp] theorem State.setTeam_discarded (c t : Nat) (x : Team) : (s.setTeam c t x).discarded = s.discarded := rfl
@[simp] theorem State.setTeam_part (c t : Nat) (x : Team) : (s.setTeam c t x).part = s.part := rfl
@[simp] theorem State.setTeam_partPend (c t : Nat) (x : Team) : (s.setTeam c t x).partPend = s.partPend := rfl
@[simp] theorem State.setTeam_exports (c t : Nat) (x : Team) : (s.setTeam c t x).exports = s.exports := rfl
@[simp] theorem State.setTeam_groups (c t : Nat) (x : Team) : (s.setTeam c t x).groups = s.groups := rfl
@[simp] theorem State.setTeam_ctxs (c t : Nat) (x : Team) : (s.setTeam c t x).ctxs = s.ctxs := rfl
@[simp] theorem State.setTeam_launches (c t : Nat) (x : Team) : (s.setTeam c t x).launches = s.launches := rfl
@[simp] theorem State.setTeam_armWait (c t : Nat) (x : Team) : (s.setTeam c t x).armWait = s.armWait := rfl
@[simp] theorem State.setTeam_saved (c t : Nat) (x : Team) : (s.setTeam c t x).saved = s.saved := rfl
@[simp] theorem State.setTeam_tasks (c t : Nat) (x : Team) : (s.setTeam c t x).tasks = s.tasks := rfl
@[simp] theorem State.setTeam_outbox (c t : Nat) (x : Team) : (s.setTeam c t x).outbox = s.outbox := rfl
@[simp] theorem State.setTeam_mem (c t : Nat) (x : Team) : (s.setTeam c t x).mem = s.mem := rfl
@[simp] theorem State.setTeam_l2 (c t : Nat) (x : Team) : (s.setTeam c t x).l2 = s.l2 := rfl
@[simp] theorem State.setTeam_l2Lines (c t : Nat) (x : Team) : (s.setTeam c t x).l2Lines = s.l2Lines := rfl
@[simp] theorem State.setTeam_l2Whole (c t : Nat) (x : Team) : (s.setTeam c t x).l2Whole = s.l2Whole := rfl
@[simp] theorem State.setTeam_poison (c t : Nat) (x : Team) : (s.setTeam c t x).poison = s.poison := rfl
@[simp] theorem State.setTeam_freeRows (c t : Nat) (x : Team) : (s.setTeam c t x).freeRows = s.freeRows := rfl
@[simp] theorem State.setTeam_freePend (c t : Nat) (x : Team) : (s.setTeam c t x).freePend = s.freePend := rfl
@[simp] theorem State.setTeam_hbmReqs (c t : Nat) (x : Team) : (s.setTeam c t x).hbmReqs = s.hbmReqs := rfl
@[simp] theorem State.setTeam_hbmWait (c t : Nat) (x : Team) : (s.setTeam c t x).hbmWait = s.hbmWait := rfl
@[simp] theorem State.setTeam_hbmRecs (c t : Nat) (x : Team) : (s.setTeam c t x).hbmRecs = s.hbmRecs := rfl
@[simp] theorem State.setTeam_declared (c t : Nat) (x : Team) : (s.setTeam c t x).declared = s.declared := rfl
@[simp] theorem State.setTeam_bankErrs (c t : Nat) (x : Team) : (s.setTeam c t x).bankErrs = s.bankErrs := rfl
@[simp] theorem State.setTeam_poolErrs (c t : Nat) (x : Team) : (s.setTeam c t x).poolErrs = s.poolErrs := rfl
@[simp] theorem State.setTeam_poolDeclared (c t : Nat) (x : Team) : (s.setTeam c t x).poolDeclared = s.poolDeclared := rfl
@[simp] theorem State.setTeam_errWindow (c t : Nat) (x : Team) : (s.setTeam c t x).errWindow = s.errWindow := rfl
@[simp] theorem State.setTeam_remaps (c t : Nat) (x : Team) : (s.setTeam c t x).remaps = s.remaps := rfl
@[simp] theorem State.setTeam_spareRows (c t : Nat) (x : Team) : (s.setTeam c t x).spareRows = s.spareRows := rfl
@[simp] theorem State.setTeam_l2tlb (c t : Nat) (x : Team) : (s.setTeam c t x).l2tlb = s.l2tlb := rfl
@[simp] theorem State.setTeam_ptrs (c t : Nat) (x : Team) : (s.setTeam c t x).ptrs = s.ptrs := rfl
@[simp] theorem State.setTeam_walks (c t : Nat) (x : Team) : (s.setTeam c t x).walks = s.walks := rfl
@[simp] theorem State.setTeam_xinvs (c t : Nat) (x : Team) : (s.setTeam c t x).xinvs = s.xinvs := rfl
@[simp] theorem State.setTeam_grid (c t : Nat) (x : Team) : (s.setTeam c t x).grid = s.grid := rfl
@[simp] theorem State.setTeam_sgroups (c t : Nat) (x : Team) : (s.setTeam c t x).sgroups = s.sgroups := rfl
@[simp] theorem State.setTeam_shoreQ (c t : Nat) (x : Team) : (s.setTeam c t x).shoreQ = s.shoreQ := rfl
@[simp] theorem State.setTeam_rate (c t : Nat) (x : Team) : (s.setTeam c t x).rate = s.rate := rfl
@[simp] theorem State.setTeam_cap (c t : Nat) (x : Team) : (s.setTeam c t x).cap = s.cap := rfl
@[simp] theorem State.setTeam_temps (c t : Nat) (x : Team) : (s.setTeam c t x).temps = s.temps := rfl
@[simp] theorem State.setTeam_throttle (c t : Nat) (x : Team) : (s.setTeam c t x).throttle = s.throttle := rfl
@[simp] theorem State.setTeam_volts (c t : Nat) (x : Team) : (s.setTeam c t x).volts = s.volts := rfl
@[simp] theorem State.setTeam_cores (c t : Nat) (x : Team) : (s.setTeam c t x).cores = s.cores := rfl
@[simp] theorem State.setTeam_blocks (c t : Nat) (x : Team) : (s.setTeam c t x).blocks = s.blocks := rfl
@[simp] theorem State.setTeam_teams (c t : Nat) (x : Team) : (s.setTeam c t x).teams = PMap.set s.teams (16 * c + t) x := rfl

/-! `State.modTeam` changes `teams` alone. -/

@[simp] theorem State.modTeam_sched (c t : Nat) (f : Team → Team) : (s.modTeam c t f).sched = s.sched := rfl
@[simp] theorem State.modTeam_ecc (c t : Nat) (f : Team → Team) : (s.modTeam c t f).ecc = s.ecc := rfl
@[simp] theorem State.modTeam_cur (c t : Nat) (f : Team → Team) : (s.modTeam c t f).cur = s.cur := rfl
@[simp] theorem State.modTeam_fresh (c t : Nat) (f : Team → Team) : (s.modTeam c t f).fresh = s.fresh := rfl
@[simp] theorem State.modTeam_cycle (c t : Nat) (f : Team → Team) : (s.modTeam c t f).cycle = s.cycle := rfl
@[simp] theorem State.modTeam_epoch (c t : Nat) (f : Team → Team) : (s.modTeam c t f).epoch = s.epoch := rfl
@[simp] theorem State.modTeam_ready (c t : Nat) (f : Team → Team) : (s.modTeam c t f).ready = s.ready := rfl
@[simp] theorem State.modTeam_warm (c t : Nat) (f : Team → Team) : (s.modTeam c t f).warm = s.warm := rfl
@[simp] theorem State.modTeam_secVersion (c t : Nat) (f : Team → Team) : (s.modTeam c t f).secVersion = s.secVersion := rfl
@[simp] theorem State.modTeam_fwDigest (c t : Nat) (f : Team → Team) : (s.modTeam c t f).fwDigest = s.fwDigest := rfl
@[simp] theorem State.modTeam_images (c t : Nat) (f : Team → Team) : (s.modTeam c t f).images = s.images := rfl
@[simp] theorem State.modTeam_fuseMin (c t : Nat) (f : Team → Team) : (s.modTeam c t f).fuseMin = s.fuseMin := rfl
@[simp] theorem State.modTeam_deviceId (c t : Nat) (f : Team → Team) : (s.modTeam c t f).deviceId = s.deviceId := rfl
@[simp] theorem State.modTeam_remoteTimeout (c t : Nat) (f : Team → Team) : (s.modTeam c t f).remoteTimeout = s.remoteTimeout := rfl
@[simp] theorem State.modTeam_startTimeout (c t : Nat) (f : Team → Team) : (s.modTeam c t f).startTimeout = s.startTimeout := rfl
@[simp] theorem State.modTeam_groupTimeout (c t : Nat) (f : Team → Team) : (s.modTeam c t f).groupTimeout = s.groupTimeout := rfl
@[simp] theorem State.modTeam_portsDown (c t : Nat) (f : Team → Team) : (s.modTeam c t f).portsDown = s.portsDown := rfl
@[simp] theorem State.modTeam_unreachable (c t : Nat) (f : Team → Team) : (s.modTeam c t f).unreachable = s.unreachable := rfl
@[simp] theorem State.modTeam_remote (c t : Nat) (f : Team → Team) : (s.modTeam c t f).remote = s.remote := rfl
@[simp] theorem State.modTeam_sessions (c t : Nat) (f : Team → Team) : (s.modTeam c t f).sessions = s.sessions := rfl
@[simp] theorem State.modTeam_nonces (c t : Nat) (f : Team → Team) : (s.modTeam c t f).nonces = s.nonces := rfl
@[simp] theorem State.modTeam_discarded (c t : Nat) (f : Team → Team) : (s.modTeam c t f).discarded = s.discarded := rfl
@[simp] theorem State.modTeam_part (c t : Nat) (f : Team → Team) : (s.modTeam c t f).part = s.part := rfl
@[simp] theorem State.modTeam_partPend (c t : Nat) (f : Team → Team) : (s.modTeam c t f).partPend = s.partPend := rfl
@[simp] theorem State.modTeam_exports (c t : Nat) (f : Team → Team) : (s.modTeam c t f).exports = s.exports := rfl
@[simp] theorem State.modTeam_groups (c t : Nat) (f : Team → Team) : (s.modTeam c t f).groups = s.groups := rfl
@[simp] theorem State.modTeam_ctxs (c t : Nat) (f : Team → Team) : (s.modTeam c t f).ctxs = s.ctxs := rfl
@[simp] theorem State.modTeam_launches (c t : Nat) (f : Team → Team) : (s.modTeam c t f).launches = s.launches := rfl
@[simp] theorem State.modTeam_armWait (c t : Nat) (f : Team → Team) : (s.modTeam c t f).armWait = s.armWait := rfl
@[simp] theorem State.modTeam_saved (c t : Nat) (f : Team → Team) : (s.modTeam c t f).saved = s.saved := rfl
@[simp] theorem State.modTeam_tasks (c t : Nat) (f : Team → Team) : (s.modTeam c t f).tasks = s.tasks := rfl
@[simp] theorem State.modTeam_outbox (c t : Nat) (f : Team → Team) : (s.modTeam c t f).outbox = s.outbox := rfl
@[simp] theorem State.modTeam_mem (c t : Nat) (f : Team → Team) : (s.modTeam c t f).mem = s.mem := rfl
@[simp] theorem State.modTeam_l2 (c t : Nat) (f : Team → Team) : (s.modTeam c t f).l2 = s.l2 := rfl
@[simp] theorem State.modTeam_l2Lines (c t : Nat) (f : Team → Team) : (s.modTeam c t f).l2Lines = s.l2Lines := rfl
@[simp] theorem State.modTeam_l2Whole (c t : Nat) (f : Team → Team) : (s.modTeam c t f).l2Whole = s.l2Whole := rfl
@[simp] theorem State.modTeam_poison (c t : Nat) (f : Team → Team) : (s.modTeam c t f).poison = s.poison := rfl
@[simp] theorem State.modTeam_freeRows (c t : Nat) (f : Team → Team) : (s.modTeam c t f).freeRows = s.freeRows := rfl
@[simp] theorem State.modTeam_freePend (c t : Nat) (f : Team → Team) : (s.modTeam c t f).freePend = s.freePend := rfl
@[simp] theorem State.modTeam_hbmReqs (c t : Nat) (f : Team → Team) : (s.modTeam c t f).hbmReqs = s.hbmReqs := rfl
@[simp] theorem State.modTeam_hbmWait (c t : Nat) (f : Team → Team) : (s.modTeam c t f).hbmWait = s.hbmWait := rfl
@[simp] theorem State.modTeam_hbmRecs (c t : Nat) (f : Team → Team) : (s.modTeam c t f).hbmRecs = s.hbmRecs := rfl
@[simp] theorem State.modTeam_declared (c t : Nat) (f : Team → Team) : (s.modTeam c t f).declared = s.declared := rfl
@[simp] theorem State.modTeam_bankErrs (c t : Nat) (f : Team → Team) : (s.modTeam c t f).bankErrs = s.bankErrs := rfl
@[simp] theorem State.modTeam_poolErrs (c t : Nat) (f : Team → Team) : (s.modTeam c t f).poolErrs = s.poolErrs := rfl
@[simp] theorem State.modTeam_poolDeclared (c t : Nat) (f : Team → Team) : (s.modTeam c t f).poolDeclared = s.poolDeclared := rfl
@[simp] theorem State.modTeam_errWindow (c t : Nat) (f : Team → Team) : (s.modTeam c t f).errWindow = s.errWindow := rfl
@[simp] theorem State.modTeam_remaps (c t : Nat) (f : Team → Team) : (s.modTeam c t f).remaps = s.remaps := rfl
@[simp] theorem State.modTeam_spareRows (c t : Nat) (f : Team → Team) : (s.modTeam c t f).spareRows = s.spareRows := rfl
@[simp] theorem State.modTeam_l2tlb (c t : Nat) (f : Team → Team) : (s.modTeam c t f).l2tlb = s.l2tlb := rfl
@[simp] theorem State.modTeam_ptrs (c t : Nat) (f : Team → Team) : (s.modTeam c t f).ptrs = s.ptrs := rfl
@[simp] theorem State.modTeam_walks (c t : Nat) (f : Team → Team) : (s.modTeam c t f).walks = s.walks := rfl
@[simp] theorem State.modTeam_xinvs (c t : Nat) (f : Team → Team) : (s.modTeam c t f).xinvs = s.xinvs := rfl
@[simp] theorem State.modTeam_grid (c t : Nat) (f : Team → Team) : (s.modTeam c t f).grid = s.grid := rfl
@[simp] theorem State.modTeam_sgroups (c t : Nat) (f : Team → Team) : (s.modTeam c t f).sgroups = s.sgroups := rfl
@[simp] theorem State.modTeam_shoreQ (c t : Nat) (f : Team → Team) : (s.modTeam c t f).shoreQ = s.shoreQ := rfl
@[simp] theorem State.modTeam_rate (c t : Nat) (f : Team → Team) : (s.modTeam c t f).rate = s.rate := rfl
@[simp] theorem State.modTeam_cap (c t : Nat) (f : Team → Team) : (s.modTeam c t f).cap = s.cap := rfl
@[simp] theorem State.modTeam_temps (c t : Nat) (f : Team → Team) : (s.modTeam c t f).temps = s.temps := rfl
@[simp] theorem State.modTeam_throttle (c t : Nat) (f : Team → Team) : (s.modTeam c t f).throttle = s.throttle := rfl
@[simp] theorem State.modTeam_volts (c t : Nat) (f : Team → Team) : (s.modTeam c t f).volts = s.volts := rfl
@[simp] theorem State.modTeam_cores (c t : Nat) (f : Team → Team) : (s.modTeam c t f).cores = s.cores := rfl
@[simp] theorem State.modTeam_blocks (c t : Nat) (f : Team → Team) : (s.modTeam c t f).blocks = s.blocks := rfl
@[simp] theorem State.modTeam_teams (c t : Nat) (f : Team → Team) : (s.modTeam c t f).teams = PMap.modify s.teams (16 * c + t) f := rfl

/-! `State.setCore` changes `cores` alone. -/

@[simp] theorem State.setCore_sched (c : Nat) (x : Core) : (s.setCore c x).sched = s.sched := rfl
@[simp] theorem State.setCore_ecc (c : Nat) (x : Core) : (s.setCore c x).ecc = s.ecc := rfl
@[simp] theorem State.setCore_cur (c : Nat) (x : Core) : (s.setCore c x).cur = s.cur := rfl
@[simp] theorem State.setCore_fresh (c : Nat) (x : Core) : (s.setCore c x).fresh = s.fresh := rfl
@[simp] theorem State.setCore_cycle (c : Nat) (x : Core) : (s.setCore c x).cycle = s.cycle := rfl
@[simp] theorem State.setCore_epoch (c : Nat) (x : Core) : (s.setCore c x).epoch = s.epoch := rfl
@[simp] theorem State.setCore_ready (c : Nat) (x : Core) : (s.setCore c x).ready = s.ready := rfl
@[simp] theorem State.setCore_warm (c : Nat) (x : Core) : (s.setCore c x).warm = s.warm := rfl
@[simp] theorem State.setCore_secVersion (c : Nat) (x : Core) : (s.setCore c x).secVersion = s.secVersion := rfl
@[simp] theorem State.setCore_fwDigest (c : Nat) (x : Core) : (s.setCore c x).fwDigest = s.fwDigest := rfl
@[simp] theorem State.setCore_images (c : Nat) (x : Core) : (s.setCore c x).images = s.images := rfl
@[simp] theorem State.setCore_fuseMin (c : Nat) (x : Core) : (s.setCore c x).fuseMin = s.fuseMin := rfl
@[simp] theorem State.setCore_deviceId (c : Nat) (x : Core) : (s.setCore c x).deviceId = s.deviceId := rfl
@[simp] theorem State.setCore_remoteTimeout (c : Nat) (x : Core) : (s.setCore c x).remoteTimeout = s.remoteTimeout := rfl
@[simp] theorem State.setCore_startTimeout (c : Nat) (x : Core) : (s.setCore c x).startTimeout = s.startTimeout := rfl
@[simp] theorem State.setCore_groupTimeout (c : Nat) (x : Core) : (s.setCore c x).groupTimeout = s.groupTimeout := rfl
@[simp] theorem State.setCore_portsDown (c : Nat) (x : Core) : (s.setCore c x).portsDown = s.portsDown := rfl
@[simp] theorem State.setCore_unreachable (c : Nat) (x : Core) : (s.setCore c x).unreachable = s.unreachable := rfl
@[simp] theorem State.setCore_remote (c : Nat) (x : Core) : (s.setCore c x).remote = s.remote := rfl
@[simp] theorem State.setCore_sessions (c : Nat) (x : Core) : (s.setCore c x).sessions = s.sessions := rfl
@[simp] theorem State.setCore_nonces (c : Nat) (x : Core) : (s.setCore c x).nonces = s.nonces := rfl
@[simp] theorem State.setCore_discarded (c : Nat) (x : Core) : (s.setCore c x).discarded = s.discarded := rfl
@[simp] theorem State.setCore_part (c : Nat) (x : Core) : (s.setCore c x).part = s.part := rfl
@[simp] theorem State.setCore_partPend (c : Nat) (x : Core) : (s.setCore c x).partPend = s.partPend := rfl
@[simp] theorem State.setCore_exports (c : Nat) (x : Core) : (s.setCore c x).exports = s.exports := rfl
@[simp] theorem State.setCore_groups (c : Nat) (x : Core) : (s.setCore c x).groups = s.groups := rfl
@[simp] theorem State.setCore_ctxs (c : Nat) (x : Core) : (s.setCore c x).ctxs = s.ctxs := rfl
@[simp] theorem State.setCore_launches (c : Nat) (x : Core) : (s.setCore c x).launches = s.launches := rfl
@[simp] theorem State.setCore_armWait (c : Nat) (x : Core) : (s.setCore c x).armWait = s.armWait := rfl
@[simp] theorem State.setCore_saved (c : Nat) (x : Core) : (s.setCore c x).saved = s.saved := rfl
@[simp] theorem State.setCore_tasks (c : Nat) (x : Core) : (s.setCore c x).tasks = s.tasks := rfl
@[simp] theorem State.setCore_outbox (c : Nat) (x : Core) : (s.setCore c x).outbox = s.outbox := rfl
@[simp] theorem State.setCore_mem (c : Nat) (x : Core) : (s.setCore c x).mem = s.mem := rfl
@[simp] theorem State.setCore_l2 (c : Nat) (x : Core) : (s.setCore c x).l2 = s.l2 := rfl
@[simp] theorem State.setCore_l2Lines (c : Nat) (x : Core) : (s.setCore c x).l2Lines = s.l2Lines := rfl
@[simp] theorem State.setCore_l2Whole (c : Nat) (x : Core) : (s.setCore c x).l2Whole = s.l2Whole := rfl
@[simp] theorem State.setCore_poison (c : Nat) (x : Core) : (s.setCore c x).poison = s.poison := rfl
@[simp] theorem State.setCore_freeRows (c : Nat) (x : Core) : (s.setCore c x).freeRows = s.freeRows := rfl
@[simp] theorem State.setCore_freePend (c : Nat) (x : Core) : (s.setCore c x).freePend = s.freePend := rfl
@[simp] theorem State.setCore_hbmReqs (c : Nat) (x : Core) : (s.setCore c x).hbmReqs = s.hbmReqs := rfl
@[simp] theorem State.setCore_hbmWait (c : Nat) (x : Core) : (s.setCore c x).hbmWait = s.hbmWait := rfl
@[simp] theorem State.setCore_hbmRecs (c : Nat) (x : Core) : (s.setCore c x).hbmRecs = s.hbmRecs := rfl
@[simp] theorem State.setCore_declared (c : Nat) (x : Core) : (s.setCore c x).declared = s.declared := rfl
@[simp] theorem State.setCore_bankErrs (c : Nat) (x : Core) : (s.setCore c x).bankErrs = s.bankErrs := rfl
@[simp] theorem State.setCore_poolErrs (c : Nat) (x : Core) : (s.setCore c x).poolErrs = s.poolErrs := rfl
@[simp] theorem State.setCore_poolDeclared (c : Nat) (x : Core) : (s.setCore c x).poolDeclared = s.poolDeclared := rfl
@[simp] theorem State.setCore_errWindow (c : Nat) (x : Core) : (s.setCore c x).errWindow = s.errWindow := rfl
@[simp] theorem State.setCore_remaps (c : Nat) (x : Core) : (s.setCore c x).remaps = s.remaps := rfl
@[simp] theorem State.setCore_spareRows (c : Nat) (x : Core) : (s.setCore c x).spareRows = s.spareRows := rfl
@[simp] theorem State.setCore_l2tlb (c : Nat) (x : Core) : (s.setCore c x).l2tlb = s.l2tlb := rfl
@[simp] theorem State.setCore_ptrs (c : Nat) (x : Core) : (s.setCore c x).ptrs = s.ptrs := rfl
@[simp] theorem State.setCore_walks (c : Nat) (x : Core) : (s.setCore c x).walks = s.walks := rfl
@[simp] theorem State.setCore_xinvs (c : Nat) (x : Core) : (s.setCore c x).xinvs = s.xinvs := rfl
@[simp] theorem State.setCore_grid (c : Nat) (x : Core) : (s.setCore c x).grid = s.grid := rfl
@[simp] theorem State.setCore_sgroups (c : Nat) (x : Core) : (s.setCore c x).sgroups = s.sgroups := rfl
@[simp] theorem State.setCore_shoreQ (c : Nat) (x : Core) : (s.setCore c x).shoreQ = s.shoreQ := rfl
@[simp] theorem State.setCore_rate (c : Nat) (x : Core) : (s.setCore c x).rate = s.rate := rfl
@[simp] theorem State.setCore_cap (c : Nat) (x : Core) : (s.setCore c x).cap = s.cap := rfl
@[simp] theorem State.setCore_temps (c : Nat) (x : Core) : (s.setCore c x).temps = s.temps := rfl
@[simp] theorem State.setCore_throttle (c : Nat) (x : Core) : (s.setCore c x).throttle = s.throttle := rfl
@[simp] theorem State.setCore_volts (c : Nat) (x : Core) : (s.setCore c x).volts = s.volts := rfl
@[simp] theorem State.setCore_cores (c : Nat) (x : Core) : (s.setCore c x).cores = PMap.set s.cores c x := rfl
@[simp] theorem State.setCore_blocks (c : Nat) (x : Core) : (s.setCore c x).blocks = s.blocks := rfl
@[simp] theorem State.setCore_teams (c : Nat) (x : Core) : (s.setCore c x).teams = s.teams := rfl

/-! `State.modCore` changes `cores` alone. -/

@[simp] theorem State.modCore_sched (c : Nat) (f : Core → Core) : (s.modCore c f).sched = s.sched := rfl
@[simp] theorem State.modCore_ecc (c : Nat) (f : Core → Core) : (s.modCore c f).ecc = s.ecc := rfl
@[simp] theorem State.modCore_cur (c : Nat) (f : Core → Core) : (s.modCore c f).cur = s.cur := rfl
@[simp] theorem State.modCore_fresh (c : Nat) (f : Core → Core) : (s.modCore c f).fresh = s.fresh := rfl
@[simp] theorem State.modCore_cycle (c : Nat) (f : Core → Core) : (s.modCore c f).cycle = s.cycle := rfl
@[simp] theorem State.modCore_epoch (c : Nat) (f : Core → Core) : (s.modCore c f).epoch = s.epoch := rfl
@[simp] theorem State.modCore_ready (c : Nat) (f : Core → Core) : (s.modCore c f).ready = s.ready := rfl
@[simp] theorem State.modCore_warm (c : Nat) (f : Core → Core) : (s.modCore c f).warm = s.warm := rfl
@[simp] theorem State.modCore_secVersion (c : Nat) (f : Core → Core) : (s.modCore c f).secVersion = s.secVersion := rfl
@[simp] theorem State.modCore_fwDigest (c : Nat) (f : Core → Core) : (s.modCore c f).fwDigest = s.fwDigest := rfl
@[simp] theorem State.modCore_images (c : Nat) (f : Core → Core) : (s.modCore c f).images = s.images := rfl
@[simp] theorem State.modCore_fuseMin (c : Nat) (f : Core → Core) : (s.modCore c f).fuseMin = s.fuseMin := rfl
@[simp] theorem State.modCore_deviceId (c : Nat) (f : Core → Core) : (s.modCore c f).deviceId = s.deviceId := rfl
@[simp] theorem State.modCore_remoteTimeout (c : Nat) (f : Core → Core) : (s.modCore c f).remoteTimeout = s.remoteTimeout := rfl
@[simp] theorem State.modCore_startTimeout (c : Nat) (f : Core → Core) : (s.modCore c f).startTimeout = s.startTimeout := rfl
@[simp] theorem State.modCore_groupTimeout (c : Nat) (f : Core → Core) : (s.modCore c f).groupTimeout = s.groupTimeout := rfl
@[simp] theorem State.modCore_portsDown (c : Nat) (f : Core → Core) : (s.modCore c f).portsDown = s.portsDown := rfl
@[simp] theorem State.modCore_unreachable (c : Nat) (f : Core → Core) : (s.modCore c f).unreachable = s.unreachable := rfl
@[simp] theorem State.modCore_remote (c : Nat) (f : Core → Core) : (s.modCore c f).remote = s.remote := rfl
@[simp] theorem State.modCore_sessions (c : Nat) (f : Core → Core) : (s.modCore c f).sessions = s.sessions := rfl
@[simp] theorem State.modCore_nonces (c : Nat) (f : Core → Core) : (s.modCore c f).nonces = s.nonces := rfl
@[simp] theorem State.modCore_discarded (c : Nat) (f : Core → Core) : (s.modCore c f).discarded = s.discarded := rfl
@[simp] theorem State.modCore_part (c : Nat) (f : Core → Core) : (s.modCore c f).part = s.part := rfl
@[simp] theorem State.modCore_partPend (c : Nat) (f : Core → Core) : (s.modCore c f).partPend = s.partPend := rfl
@[simp] theorem State.modCore_exports (c : Nat) (f : Core → Core) : (s.modCore c f).exports = s.exports := rfl
@[simp] theorem State.modCore_groups (c : Nat) (f : Core → Core) : (s.modCore c f).groups = s.groups := rfl
@[simp] theorem State.modCore_ctxs (c : Nat) (f : Core → Core) : (s.modCore c f).ctxs = s.ctxs := rfl
@[simp] theorem State.modCore_launches (c : Nat) (f : Core → Core) : (s.modCore c f).launches = s.launches := rfl
@[simp] theorem State.modCore_armWait (c : Nat) (f : Core → Core) : (s.modCore c f).armWait = s.armWait := rfl
@[simp] theorem State.modCore_saved (c : Nat) (f : Core → Core) : (s.modCore c f).saved = s.saved := rfl
@[simp] theorem State.modCore_tasks (c : Nat) (f : Core → Core) : (s.modCore c f).tasks = s.tasks := rfl
@[simp] theorem State.modCore_outbox (c : Nat) (f : Core → Core) : (s.modCore c f).outbox = s.outbox := rfl
@[simp] theorem State.modCore_mem (c : Nat) (f : Core → Core) : (s.modCore c f).mem = s.mem := rfl
@[simp] theorem State.modCore_l2 (c : Nat) (f : Core → Core) : (s.modCore c f).l2 = s.l2 := rfl
@[simp] theorem State.modCore_l2Lines (c : Nat) (f : Core → Core) : (s.modCore c f).l2Lines = s.l2Lines := rfl
@[simp] theorem State.modCore_l2Whole (c : Nat) (f : Core → Core) : (s.modCore c f).l2Whole = s.l2Whole := rfl
@[simp] theorem State.modCore_poison (c : Nat) (f : Core → Core) : (s.modCore c f).poison = s.poison := rfl
@[simp] theorem State.modCore_freeRows (c : Nat) (f : Core → Core) : (s.modCore c f).freeRows = s.freeRows := rfl
@[simp] theorem State.modCore_freePend (c : Nat) (f : Core → Core) : (s.modCore c f).freePend = s.freePend := rfl
@[simp] theorem State.modCore_hbmReqs (c : Nat) (f : Core → Core) : (s.modCore c f).hbmReqs = s.hbmReqs := rfl
@[simp] theorem State.modCore_hbmWait (c : Nat) (f : Core → Core) : (s.modCore c f).hbmWait = s.hbmWait := rfl
@[simp] theorem State.modCore_hbmRecs (c : Nat) (f : Core → Core) : (s.modCore c f).hbmRecs = s.hbmRecs := rfl
@[simp] theorem State.modCore_declared (c : Nat) (f : Core → Core) : (s.modCore c f).declared = s.declared := rfl
@[simp] theorem State.modCore_bankErrs (c : Nat) (f : Core → Core) : (s.modCore c f).bankErrs = s.bankErrs := rfl
@[simp] theorem State.modCore_poolErrs (c : Nat) (f : Core → Core) : (s.modCore c f).poolErrs = s.poolErrs := rfl
@[simp] theorem State.modCore_poolDeclared (c : Nat) (f : Core → Core) : (s.modCore c f).poolDeclared = s.poolDeclared := rfl
@[simp] theorem State.modCore_errWindow (c : Nat) (f : Core → Core) : (s.modCore c f).errWindow = s.errWindow := rfl
@[simp] theorem State.modCore_remaps (c : Nat) (f : Core → Core) : (s.modCore c f).remaps = s.remaps := rfl
@[simp] theorem State.modCore_spareRows (c : Nat) (f : Core → Core) : (s.modCore c f).spareRows = s.spareRows := rfl
@[simp] theorem State.modCore_l2tlb (c : Nat) (f : Core → Core) : (s.modCore c f).l2tlb = s.l2tlb := rfl
@[simp] theorem State.modCore_ptrs (c : Nat) (f : Core → Core) : (s.modCore c f).ptrs = s.ptrs := rfl
@[simp] theorem State.modCore_walks (c : Nat) (f : Core → Core) : (s.modCore c f).walks = s.walks := rfl
@[simp] theorem State.modCore_xinvs (c : Nat) (f : Core → Core) : (s.modCore c f).xinvs = s.xinvs := rfl
@[simp] theorem State.modCore_grid (c : Nat) (f : Core → Core) : (s.modCore c f).grid = s.grid := rfl
@[simp] theorem State.modCore_sgroups (c : Nat) (f : Core → Core) : (s.modCore c f).sgroups = s.sgroups := rfl
@[simp] theorem State.modCore_shoreQ (c : Nat) (f : Core → Core) : (s.modCore c f).shoreQ = s.shoreQ := rfl
@[simp] theorem State.modCore_rate (c : Nat) (f : Core → Core) : (s.modCore c f).rate = s.rate := rfl
@[simp] theorem State.modCore_cap (c : Nat) (f : Core → Core) : (s.modCore c f).cap = s.cap := rfl
@[simp] theorem State.modCore_temps (c : Nat) (f : Core → Core) : (s.modCore c f).temps = s.temps := rfl
@[simp] theorem State.modCore_throttle (c : Nat) (f : Core → Core) : (s.modCore c f).throttle = s.throttle := rfl
@[simp] theorem State.modCore_volts (c : Nat) (f : Core → Core) : (s.modCore c f).volts = s.volts := rfl
@[simp] theorem State.modCore_cores (c : Nat) (f : Core → Core) : (s.modCore c f).cores = PMap.set s.cores c (f (s.core c)) := rfl
@[simp] theorem State.modCore_blocks (c : Nat) (f : Core → Core) : (s.modCore c f).blocks = s.blocks := rfl
@[simp] theorem State.modCore_teams (c : Nat) (f : Core → Core) : (s.modCore c f).teams = s.teams := rfl

/-! `State.modBlock` changes `blocks` alone. -/

@[simp] theorem State.modBlock_sched (c : Nat) (f : Block → Block) : (s.modBlock c f).sched = s.sched := rfl
@[simp] theorem State.modBlock_ecc (c : Nat) (f : Block → Block) : (s.modBlock c f).ecc = s.ecc := rfl
@[simp] theorem State.modBlock_cur (c : Nat) (f : Block → Block) : (s.modBlock c f).cur = s.cur := rfl
@[simp] theorem State.modBlock_fresh (c : Nat) (f : Block → Block) : (s.modBlock c f).fresh = s.fresh := rfl
@[simp] theorem State.modBlock_cycle (c : Nat) (f : Block → Block) : (s.modBlock c f).cycle = s.cycle := rfl
@[simp] theorem State.modBlock_epoch (c : Nat) (f : Block → Block) : (s.modBlock c f).epoch = s.epoch := rfl
@[simp] theorem State.modBlock_ready (c : Nat) (f : Block → Block) : (s.modBlock c f).ready = s.ready := rfl
@[simp] theorem State.modBlock_warm (c : Nat) (f : Block → Block) : (s.modBlock c f).warm = s.warm := rfl
@[simp] theorem State.modBlock_secVersion (c : Nat) (f : Block → Block) : (s.modBlock c f).secVersion = s.secVersion := rfl
@[simp] theorem State.modBlock_fwDigest (c : Nat) (f : Block → Block) : (s.modBlock c f).fwDigest = s.fwDigest := rfl
@[simp] theorem State.modBlock_images (c : Nat) (f : Block → Block) : (s.modBlock c f).images = s.images := rfl
@[simp] theorem State.modBlock_fuseMin (c : Nat) (f : Block → Block) : (s.modBlock c f).fuseMin = s.fuseMin := rfl
@[simp] theorem State.modBlock_deviceId (c : Nat) (f : Block → Block) : (s.modBlock c f).deviceId = s.deviceId := rfl
@[simp] theorem State.modBlock_remoteTimeout (c : Nat) (f : Block → Block) : (s.modBlock c f).remoteTimeout = s.remoteTimeout := rfl
@[simp] theorem State.modBlock_startTimeout (c : Nat) (f : Block → Block) : (s.modBlock c f).startTimeout = s.startTimeout := rfl
@[simp] theorem State.modBlock_groupTimeout (c : Nat) (f : Block → Block) : (s.modBlock c f).groupTimeout = s.groupTimeout := rfl
@[simp] theorem State.modBlock_portsDown (c : Nat) (f : Block → Block) : (s.modBlock c f).portsDown = s.portsDown := rfl
@[simp] theorem State.modBlock_unreachable (c : Nat) (f : Block → Block) : (s.modBlock c f).unreachable = s.unreachable := rfl
@[simp] theorem State.modBlock_remote (c : Nat) (f : Block → Block) : (s.modBlock c f).remote = s.remote := rfl
@[simp] theorem State.modBlock_sessions (c : Nat) (f : Block → Block) : (s.modBlock c f).sessions = s.sessions := rfl
@[simp] theorem State.modBlock_nonces (c : Nat) (f : Block → Block) : (s.modBlock c f).nonces = s.nonces := rfl
@[simp] theorem State.modBlock_discarded (c : Nat) (f : Block → Block) : (s.modBlock c f).discarded = s.discarded := rfl
@[simp] theorem State.modBlock_part (c : Nat) (f : Block → Block) : (s.modBlock c f).part = s.part := rfl
@[simp] theorem State.modBlock_partPend (c : Nat) (f : Block → Block) : (s.modBlock c f).partPend = s.partPend := rfl
@[simp] theorem State.modBlock_exports (c : Nat) (f : Block → Block) : (s.modBlock c f).exports = s.exports := rfl
@[simp] theorem State.modBlock_groups (c : Nat) (f : Block → Block) : (s.modBlock c f).groups = s.groups := rfl
@[simp] theorem State.modBlock_ctxs (c : Nat) (f : Block → Block) : (s.modBlock c f).ctxs = s.ctxs := rfl
@[simp] theorem State.modBlock_launches (c : Nat) (f : Block → Block) : (s.modBlock c f).launches = s.launches := rfl
@[simp] theorem State.modBlock_armWait (c : Nat) (f : Block → Block) : (s.modBlock c f).armWait = s.armWait := rfl
@[simp] theorem State.modBlock_saved (c : Nat) (f : Block → Block) : (s.modBlock c f).saved = s.saved := rfl
@[simp] theorem State.modBlock_tasks (c : Nat) (f : Block → Block) : (s.modBlock c f).tasks = s.tasks := rfl
@[simp] theorem State.modBlock_outbox (c : Nat) (f : Block → Block) : (s.modBlock c f).outbox = s.outbox := rfl
@[simp] theorem State.modBlock_mem (c : Nat) (f : Block → Block) : (s.modBlock c f).mem = s.mem := rfl
@[simp] theorem State.modBlock_l2 (c : Nat) (f : Block → Block) : (s.modBlock c f).l2 = s.l2 := rfl
@[simp] theorem State.modBlock_l2Lines (c : Nat) (f : Block → Block) : (s.modBlock c f).l2Lines = s.l2Lines := rfl
@[simp] theorem State.modBlock_l2Whole (c : Nat) (f : Block → Block) : (s.modBlock c f).l2Whole = s.l2Whole := rfl
@[simp] theorem State.modBlock_poison (c : Nat) (f : Block → Block) : (s.modBlock c f).poison = s.poison := rfl
@[simp] theorem State.modBlock_freeRows (c : Nat) (f : Block → Block) : (s.modBlock c f).freeRows = s.freeRows := rfl
@[simp] theorem State.modBlock_freePend (c : Nat) (f : Block → Block) : (s.modBlock c f).freePend = s.freePend := rfl
@[simp] theorem State.modBlock_hbmReqs (c : Nat) (f : Block → Block) : (s.modBlock c f).hbmReqs = s.hbmReqs := rfl
@[simp] theorem State.modBlock_hbmWait (c : Nat) (f : Block → Block) : (s.modBlock c f).hbmWait = s.hbmWait := rfl
@[simp] theorem State.modBlock_hbmRecs (c : Nat) (f : Block → Block) : (s.modBlock c f).hbmRecs = s.hbmRecs := rfl
@[simp] theorem State.modBlock_declared (c : Nat) (f : Block → Block) : (s.modBlock c f).declared = s.declared := rfl
@[simp] theorem State.modBlock_bankErrs (c : Nat) (f : Block → Block) : (s.modBlock c f).bankErrs = s.bankErrs := rfl
@[simp] theorem State.modBlock_poolErrs (c : Nat) (f : Block → Block) : (s.modBlock c f).poolErrs = s.poolErrs := rfl
@[simp] theorem State.modBlock_poolDeclared (c : Nat) (f : Block → Block) : (s.modBlock c f).poolDeclared = s.poolDeclared := rfl
@[simp] theorem State.modBlock_errWindow (c : Nat) (f : Block → Block) : (s.modBlock c f).errWindow = s.errWindow := rfl
@[simp] theorem State.modBlock_remaps (c : Nat) (f : Block → Block) : (s.modBlock c f).remaps = s.remaps := rfl
@[simp] theorem State.modBlock_spareRows (c : Nat) (f : Block → Block) : (s.modBlock c f).spareRows = s.spareRows := rfl
@[simp] theorem State.modBlock_l2tlb (c : Nat) (f : Block → Block) : (s.modBlock c f).l2tlb = s.l2tlb := rfl
@[simp] theorem State.modBlock_ptrs (c : Nat) (f : Block → Block) : (s.modBlock c f).ptrs = s.ptrs := rfl
@[simp] theorem State.modBlock_walks (c : Nat) (f : Block → Block) : (s.modBlock c f).walks = s.walks := rfl
@[simp] theorem State.modBlock_xinvs (c : Nat) (f : Block → Block) : (s.modBlock c f).xinvs = s.xinvs := rfl
@[simp] theorem State.modBlock_grid (c : Nat) (f : Block → Block) : (s.modBlock c f).grid = s.grid := rfl
@[simp] theorem State.modBlock_sgroups (c : Nat) (f : Block → Block) : (s.modBlock c f).sgroups = s.sgroups := rfl
@[simp] theorem State.modBlock_shoreQ (c : Nat) (f : Block → Block) : (s.modBlock c f).shoreQ = s.shoreQ := rfl
@[simp] theorem State.modBlock_rate (c : Nat) (f : Block → Block) : (s.modBlock c f).rate = s.rate := rfl
@[simp] theorem State.modBlock_cap (c : Nat) (f : Block → Block) : (s.modBlock c f).cap = s.cap := rfl
@[simp] theorem State.modBlock_temps (c : Nat) (f : Block → Block) : (s.modBlock c f).temps = s.temps := rfl
@[simp] theorem State.modBlock_throttle (c : Nat) (f : Block → Block) : (s.modBlock c f).throttle = s.throttle := rfl
@[simp] theorem State.modBlock_volts (c : Nat) (f : Block → Block) : (s.modBlock c f).volts = s.volts := rfl
@[simp] theorem State.modBlock_cores (c : Nat) (f : Block → Block) : (s.modBlock c f).cores = s.cores := rfl
@[simp] theorem State.modBlock_blocks (c : Nat) (f : Block → Block) : (s.modBlock c f).blocks = PMap.modify s.blocks c f := rfl
@[simp] theorem State.modBlock_teams (c : Nat) (f : Block → Block) : (s.modBlock c f).teams = s.teams := rfl

/-! `State.tick` changes `fresh` alone. -/

@[simp] theorem State.tick_sched : (s.tick).sched = s.sched := rfl
@[simp] theorem State.tick_ecc : (s.tick).ecc = s.ecc := rfl
@[simp] theorem State.tick_cur : (s.tick).cur = s.cur := rfl
@[simp] theorem State.tick_fresh : (s.tick).fresh = s.fresh + 1 := rfl
@[simp] theorem State.tick_cycle : (s.tick).cycle = s.cycle := rfl
@[simp] theorem State.tick_epoch : (s.tick).epoch = s.epoch := rfl
@[simp] theorem State.tick_ready : (s.tick).ready = s.ready := rfl
@[simp] theorem State.tick_warm : (s.tick).warm = s.warm := rfl
@[simp] theorem State.tick_secVersion : (s.tick).secVersion = s.secVersion := rfl
@[simp] theorem State.tick_fwDigest : (s.tick).fwDigest = s.fwDigest := rfl
@[simp] theorem State.tick_images : (s.tick).images = s.images := rfl
@[simp] theorem State.tick_fuseMin : (s.tick).fuseMin = s.fuseMin := rfl
@[simp] theorem State.tick_deviceId : (s.tick).deviceId = s.deviceId := rfl
@[simp] theorem State.tick_remoteTimeout : (s.tick).remoteTimeout = s.remoteTimeout := rfl
@[simp] theorem State.tick_startTimeout : (s.tick).startTimeout = s.startTimeout := rfl
@[simp] theorem State.tick_groupTimeout : (s.tick).groupTimeout = s.groupTimeout := rfl
@[simp] theorem State.tick_portsDown : (s.tick).portsDown = s.portsDown := rfl
@[simp] theorem State.tick_unreachable : (s.tick).unreachable = s.unreachable := rfl
@[simp] theorem State.tick_remote : (s.tick).remote = s.remote := rfl
@[simp] theorem State.tick_sessions : (s.tick).sessions = s.sessions := rfl
@[simp] theorem State.tick_nonces : (s.tick).nonces = s.nonces := rfl
@[simp] theorem State.tick_discarded : (s.tick).discarded = s.discarded := rfl
@[simp] theorem State.tick_part : (s.tick).part = s.part := rfl
@[simp] theorem State.tick_partPend : (s.tick).partPend = s.partPend := rfl
@[simp] theorem State.tick_exports : (s.tick).exports = s.exports := rfl
@[simp] theorem State.tick_groups : (s.tick).groups = s.groups := rfl
@[simp] theorem State.tick_ctxs : (s.tick).ctxs = s.ctxs := rfl
@[simp] theorem State.tick_launches : (s.tick).launches = s.launches := rfl
@[simp] theorem State.tick_armWait : (s.tick).armWait = s.armWait := rfl
@[simp] theorem State.tick_saved : (s.tick).saved = s.saved := rfl
@[simp] theorem State.tick_tasks : (s.tick).tasks = s.tasks := rfl
@[simp] theorem State.tick_outbox : (s.tick).outbox = s.outbox := rfl
@[simp] theorem State.tick_mem : (s.tick).mem = s.mem := rfl
@[simp] theorem State.tick_l2 : (s.tick).l2 = s.l2 := rfl
@[simp] theorem State.tick_l2Lines : (s.tick).l2Lines = s.l2Lines := rfl
@[simp] theorem State.tick_l2Whole : (s.tick).l2Whole = s.l2Whole := rfl
@[simp] theorem State.tick_poison : (s.tick).poison = s.poison := rfl
@[simp] theorem State.tick_freeRows : (s.tick).freeRows = s.freeRows := rfl
@[simp] theorem State.tick_freePend : (s.tick).freePend = s.freePend := rfl
@[simp] theorem State.tick_hbmReqs : (s.tick).hbmReqs = s.hbmReqs := rfl
@[simp] theorem State.tick_hbmWait : (s.tick).hbmWait = s.hbmWait := rfl
@[simp] theorem State.tick_hbmRecs : (s.tick).hbmRecs = s.hbmRecs := rfl
@[simp] theorem State.tick_declared : (s.tick).declared = s.declared := rfl
@[simp] theorem State.tick_bankErrs : (s.tick).bankErrs = s.bankErrs := rfl
@[simp] theorem State.tick_poolErrs : (s.tick).poolErrs = s.poolErrs := rfl
@[simp] theorem State.tick_poolDeclared : (s.tick).poolDeclared = s.poolDeclared := rfl
@[simp] theorem State.tick_errWindow : (s.tick).errWindow = s.errWindow := rfl
@[simp] theorem State.tick_remaps : (s.tick).remaps = s.remaps := rfl
@[simp] theorem State.tick_spareRows : (s.tick).spareRows = s.spareRows := rfl
@[simp] theorem State.tick_l2tlb : (s.tick).l2tlb = s.l2tlb := rfl
@[simp] theorem State.tick_ptrs : (s.tick).ptrs = s.ptrs := rfl
@[simp] theorem State.tick_walks : (s.tick).walks = s.walks := rfl
@[simp] theorem State.tick_xinvs : (s.tick).xinvs = s.xinvs := rfl
@[simp] theorem State.tick_grid : (s.tick).grid = s.grid := rfl
@[simp] theorem State.tick_sgroups : (s.tick).sgroups = s.sgroups := rfl
@[simp] theorem State.tick_shoreQ : (s.tick).shoreQ = s.shoreQ := rfl
@[simp] theorem State.tick_rate : (s.tick).rate = s.rate := rfl
@[simp] theorem State.tick_cap : (s.tick).cap = s.cap := rfl
@[simp] theorem State.tick_temps : (s.tick).temps = s.temps := rfl
@[simp] theorem State.tick_throttle : (s.tick).throttle = s.throttle := rfl
@[simp] theorem State.tick_volts : (s.tick).volts = s.volts := rfl
@[simp] theorem State.tick_cores : (s.tick).cores = s.cores := rfl
@[simp] theorem State.tick_blocks : (s.tick).blocks = s.blocks := rfl
@[simp] theorem State.tick_teams : (s.tick).teams = s.teams := rfl

/-! `State.send` changes `outbox` alone. -/

@[simp] theorem State.send_sched (m : OutMsg) : (s.send m).sched = s.sched := rfl
@[simp] theorem State.send_ecc (m : OutMsg) : (s.send m).ecc = s.ecc := rfl
@[simp] theorem State.send_cur (m : OutMsg) : (s.send m).cur = s.cur := rfl
@[simp] theorem State.send_fresh (m : OutMsg) : (s.send m).fresh = s.fresh := rfl
@[simp] theorem State.send_cycle (m : OutMsg) : (s.send m).cycle = s.cycle := rfl
@[simp] theorem State.send_epoch (m : OutMsg) : (s.send m).epoch = s.epoch := rfl
@[simp] theorem State.send_ready (m : OutMsg) : (s.send m).ready = s.ready := rfl
@[simp] theorem State.send_warm (m : OutMsg) : (s.send m).warm = s.warm := rfl
@[simp] theorem State.send_secVersion (m : OutMsg) : (s.send m).secVersion = s.secVersion := rfl
@[simp] theorem State.send_fwDigest (m : OutMsg) : (s.send m).fwDigest = s.fwDigest := rfl
@[simp] theorem State.send_images (m : OutMsg) : (s.send m).images = s.images := rfl
@[simp] theorem State.send_fuseMin (m : OutMsg) : (s.send m).fuseMin = s.fuseMin := rfl
@[simp] theorem State.send_deviceId (m : OutMsg) : (s.send m).deviceId = s.deviceId := rfl
@[simp] theorem State.send_remoteTimeout (m : OutMsg) : (s.send m).remoteTimeout = s.remoteTimeout := rfl
@[simp] theorem State.send_startTimeout (m : OutMsg) : (s.send m).startTimeout = s.startTimeout := rfl
@[simp] theorem State.send_groupTimeout (m : OutMsg) : (s.send m).groupTimeout = s.groupTimeout := rfl
@[simp] theorem State.send_portsDown (m : OutMsg) : (s.send m).portsDown = s.portsDown := rfl
@[simp] theorem State.send_unreachable (m : OutMsg) : (s.send m).unreachable = s.unreachable := rfl
@[simp] theorem State.send_remote (m : OutMsg) : (s.send m).remote = s.remote := rfl
@[simp] theorem State.send_sessions (m : OutMsg) : (s.send m).sessions = s.sessions := rfl
@[simp] theorem State.send_nonces (m : OutMsg) : (s.send m).nonces = s.nonces := rfl
@[simp] theorem State.send_discarded (m : OutMsg) : (s.send m).discarded = s.discarded := rfl
@[simp] theorem State.send_part (m : OutMsg) : (s.send m).part = s.part := rfl
@[simp] theorem State.send_partPend (m : OutMsg) : (s.send m).partPend = s.partPend := rfl
@[simp] theorem State.send_exports (m : OutMsg) : (s.send m).exports = s.exports := rfl
@[simp] theorem State.send_groups (m : OutMsg) : (s.send m).groups = s.groups := rfl
@[simp] theorem State.send_ctxs (m : OutMsg) : (s.send m).ctxs = s.ctxs := rfl
@[simp] theorem State.send_launches (m : OutMsg) : (s.send m).launches = s.launches := rfl
@[simp] theorem State.send_armWait (m : OutMsg) : (s.send m).armWait = s.armWait := rfl
@[simp] theorem State.send_saved (m : OutMsg) : (s.send m).saved = s.saved := rfl
@[simp] theorem State.send_tasks (m : OutMsg) : (s.send m).tasks = s.tasks := rfl
@[simp] theorem State.send_outbox (m : OutMsg) : (s.send m).outbox = s.outbox ++ [m] := rfl
@[simp] theorem State.send_mem (m : OutMsg) : (s.send m).mem = s.mem := rfl
@[simp] theorem State.send_l2 (m : OutMsg) : (s.send m).l2 = s.l2 := rfl
@[simp] theorem State.send_l2Lines (m : OutMsg) : (s.send m).l2Lines = s.l2Lines := rfl
@[simp] theorem State.send_l2Whole (m : OutMsg) : (s.send m).l2Whole = s.l2Whole := rfl
@[simp] theorem State.send_poison (m : OutMsg) : (s.send m).poison = s.poison := rfl
@[simp] theorem State.send_freeRows (m : OutMsg) : (s.send m).freeRows = s.freeRows := rfl
@[simp] theorem State.send_freePend (m : OutMsg) : (s.send m).freePend = s.freePend := rfl
@[simp] theorem State.send_hbmReqs (m : OutMsg) : (s.send m).hbmReqs = s.hbmReqs := rfl
@[simp] theorem State.send_hbmWait (m : OutMsg) : (s.send m).hbmWait = s.hbmWait := rfl
@[simp] theorem State.send_hbmRecs (m : OutMsg) : (s.send m).hbmRecs = s.hbmRecs := rfl
@[simp] theorem State.send_declared (m : OutMsg) : (s.send m).declared = s.declared := rfl
@[simp] theorem State.send_bankErrs (m : OutMsg) : (s.send m).bankErrs = s.bankErrs := rfl
@[simp] theorem State.send_poolErrs (m : OutMsg) : (s.send m).poolErrs = s.poolErrs := rfl
@[simp] theorem State.send_poolDeclared (m : OutMsg) : (s.send m).poolDeclared = s.poolDeclared := rfl
@[simp] theorem State.send_errWindow (m : OutMsg) : (s.send m).errWindow = s.errWindow := rfl
@[simp] theorem State.send_remaps (m : OutMsg) : (s.send m).remaps = s.remaps := rfl
@[simp] theorem State.send_spareRows (m : OutMsg) : (s.send m).spareRows = s.spareRows := rfl
@[simp] theorem State.send_l2tlb (m : OutMsg) : (s.send m).l2tlb = s.l2tlb := rfl
@[simp] theorem State.send_ptrs (m : OutMsg) : (s.send m).ptrs = s.ptrs := rfl
@[simp] theorem State.send_walks (m : OutMsg) : (s.send m).walks = s.walks := rfl
@[simp] theorem State.send_xinvs (m : OutMsg) : (s.send m).xinvs = s.xinvs := rfl
@[simp] theorem State.send_grid (m : OutMsg) : (s.send m).grid = s.grid := rfl
@[simp] theorem State.send_sgroups (m : OutMsg) : (s.send m).sgroups = s.sgroups := rfl
@[simp] theorem State.send_shoreQ (m : OutMsg) : (s.send m).shoreQ = s.shoreQ := rfl
@[simp] theorem State.send_rate (m : OutMsg) : (s.send m).rate = s.rate := rfl
@[simp] theorem State.send_cap (m : OutMsg) : (s.send m).cap = s.cap := rfl
@[simp] theorem State.send_temps (m : OutMsg) : (s.send m).temps = s.temps := rfl
@[simp] theorem State.send_throttle (m : OutMsg) : (s.send m).throttle = s.throttle := rfl
@[simp] theorem State.send_volts (m : OutMsg) : (s.send m).volts = s.volts := rfl
@[simp] theorem State.send_cores (m : OutMsg) : (s.send m).cores = s.cores := rfl
@[simp] theorem State.send_blocks (m : OutMsg) : (s.send m).blocks = s.blocks := rfl
@[simp] theorem State.send_teams (m : OutMsg) : (s.send m).teams = s.teams := rfl

end Sys2Proof.Machine
end

