-- ==== Sys2Proof/Laws/Issue.lean ====
section
/-! SUPPORT. What issuing a word does: the checks answer `go` for a ready word, and the word's end (R47, R55) moves
the acting team on and touches nothing else. -/

namespace Sys2Proof.Machine

variable {s s' s'' : State} {c t : Nat}

/-! Teams and cores, read after an update. -/

theorem State.core_modCore (s : State) (c : Nat) (f : Core → Core) (x : Nat) :
    (s.modCore c f).core x = if x = c then f (s.core c) else s.core x := by
  show (PMap.get? (PMap.set s.cores c (f (s.core c))) x).getD Core.initial = _
  rw [PMap.get?_set]
  split <;> rfl

@[simp] theorem State.team?_setTeam (s : State) (c t : Nat) (x : Team) : (s.setTeam c t x).team? c t = some x :=
  PMap.get?_set_self _ _ _

theorem State.team?_modTeam (s : State) (c t : Nat) (f : Team → Team) :
    (s.modTeam c t f).team? c t = (s.team? c t).map f := by
  show PMap.get? (PMap.modify s.teams (16 * c + t) f) (16 * c + t) = _
  rw [PMap.get?_modify, if_pos rfl]
  rfl

@[simp] theorem State.team?_modCore (s : State) (c : Nat) (f : Core → Core) (x t : Nat) :
    (s.modCore c f).team? x t = s.team? x t := rfl

/-! `OnlyTeam` composes. -/

theorem OnlyTeam.refl (s : State) (c t : Nat) : OnlyTeam s s c t :=
  ⟨fun _ => rfl, rfl, fun _ _ => rfl, fun _ => rfl, rfl⟩

theorem OnlyTeam.trans (h : OnlyTeam s s' c t) (h' : OnlyTeam s' s'' c t) : OnlyTeam s s'' c t :=
  ⟨fun a => (h'.byte a).trans (h.byte a), h'.blocks.trans h.blocks,
    fun k hk => (h'.teams k hk).trans (h.teams k hk),
    fun x => (h'.cores x).trans (h.cores x), h'.rest.trans h.rest⟩

theorem OnlyTeam.setTeam (s : State) (c t : Nat) (x : Team) : OnlyTeam s (s.setTeam c t x) c t :=
  ⟨fun _ => rfl, rfl, fun _ hk => PMap.get?_set_ne _ _ hk, fun _ => rfl, rfl⟩

theorem OnlyTeam.modTeam (s : State) (c t : Nat) (f : Team → Team) : OnlyTeam s (s.modTeam c t f) c t :=
  ⟨fun _ => rfl, rfl, fun k hk => by
    show PMap.get? (PMap.modify s.teams (16 * c + t) f) k = _
    rw [PMap.get?_modify, if_neg hk], fun _ => rfl, rfl⟩

theorem OnlyTeam.modCore (s : State) (c t : Nat) (x : Nat) (f : Core → Core) (h : (f (s.core x)).rest = (s.core x).rest) :
    OnlyTeam s (s.modCore x f) c t :=
  ⟨fun _ => rfl, rfl, fun _ _ => rfl, fun y => by
    rw [State.core_modCore]
    split
    · subst_vars; exact h
    · rfl, rfl⟩

/-! Trace packets touch the core's trace alone. -/

theorem State.emitAt_only (s : State) (x rank ty w c t : Nat) : OnlyTeam s (s.emitAt x rank ty w) c t := by
  unfold State.emitAt
  simp only []
  split
  · exact OnlyTeam.modCore _ _ _ _ _ rfl
  · exact OnlyTeam.refl _ _ _

@[simp] theorem State.emitAt_team (s : State) (x rank ty w c t : Nat) : (s.emitAt x rank ty w).team? c t = s.team? c t := by
  unfold State.emitAt; simp only []; split <;> rfl

@[simp] theorem State.emitAt_cycle (s : State) (x rank ty w : Nat) : (s.emitAt x rank ty w).cycle = s.cycle := by
  unfold State.emitAt; simp only []; split <;> rfl

theorem State.emit_only (s : State) (x ty w c t : Nat) : OnlyTeam s (s.emit x ty w) c t := State.emitAt_only ..

@[simp] theorem State.emit_team (s : State) (x ty w c t : Nat) : (s.emit x ty w).team? c t = s.team? c t :=
  State.emitAt_team ..

@[simp] theorem State.emit_cycle (s : State) (x ty w : Nat) : (s.emit x ty w).cycle = s.cycle := State.emitAt_cycle ..

theorem State.emitPc_only (s : State) (x y ty : Nat) (pc : DWord) (w c t : Nat) : OnlyTeam s (s.emitPc x y ty pc w) c t := by
  unfold State.emitPc
  simp only []
  split
  · split
    · exact ((State.emit_only _ _ _ _ _ _).trans (OnlyTeam.modCore _ _ _ _ _ rfl)).trans (State.emit_only _ _ _ _ _ _)
    · exact (State.emit_only _ _ _ _ _ _).trans (State.emit_only _ _ _ _ _ _)
  · exact State.emit_only _ _ _ _ _ _

@[simp] theorem State.emitPc_team (s : State) (x y ty : Nat) (pc : DWord) (w c t : Nat) :
    (s.emitPc x y ty pc w).team? c t = s.team? c t := by
  unfold State.emitPc; simp only []; split <;> (try split) <;> simp

@[simp] theorem State.emitPc_cycle (s : State) (x y ty : Nat) (pc : DWord) (w : Nat) :
    (s.emitPc x y ty pc w).cycle = s.cycle := by
  unfold State.emitPc; simp only []; split
  · split <;> simp only [State.emit_cycle] <;> exact State.emit_cycle ..
  · simp

theorem State.announce_only (s : State) (tm : Team) : OnlyTeam s (s.announce c t tm) c t := by
  unfold State.announce
  simp only []
  split <;> split
  · exact (State.emitPc_only ..).trans (State.emitPc_only ..)
  · exact State.emitPc_only ..
  · exact State.emitPc_only ..
  · exact OnlyTeam.refl ..

@[simp] theorem State.announce_team (s : State) (c t : Nat) (tm : Team) (x y : Nat) :
    (s.announce c t tm).team? x y = s.team? x y := by
  unfold State.announce; simp only []; split <;> split <;> simp

@[simp] theorem State.announce_cycle (s : State) (c t : Nat) (tm : Team) :
    (s.announce c t tm).cycle = s.cycle := by
  unfold State.announce; simp only []; split <;> split <;> simp

theorem State.announced_only (s : State) (c t : Nat) : OnlyTeam s (s.announced c t) c t := by
  unfold State.announced
  split
  · split
    · exact OnlyTeam.refl ..
    · exact (State.announce_only ..).trans (OnlyTeam.modTeam ..)
  · exact OnlyTeam.refl ..

/-- The packets written leave the team as it is, but that it has told them. -/
theorem State.announced_team {tm : Team} (h : s.team? c t = some tm) :
    (s.announced c t).team? c t = some { tm with told := true } := by
  simp only [State.announced, h]
  split
  · rename_i ht; rw [h, ← ht]
  · exact (State.team?_modTeam ..).trans (by rw [State.announce_team, h]; rfl)

/-! The datapath given up. -/

theorem State.emitStall_only (s : State) (x dp y w n c t : Nat) : OnlyTeam s (s.emitStall x dp y w n) c t := by
  have h (l : List Nat) (g : State → Nat → State) (hg : ∀ s i, OnlyTeam s (g s i) c t) :
      ∀ s : State, OnlyTeam s (l.foldl g s) c t := by
    induction l with
    | nil => exact fun s => OnlyTeam.refl ..
    | cons a l ih => exact fun s => (hg s a).trans (ih _)
  unfold State.emitStall
  simp only []
  split
  · exact h _ _ (fun _ _ => State.emitAt_only ..) s
  · exact (h _ _ (fun _ _ => State.emitAt_only ..) s).trans (State.emitAt_only ..)

@[simp] theorem State.emitStall_team (s : State) (x dp y w n c t : Nat) :
    (s.emitStall x dp y w n).team? c t = s.team? c t := by
  have h (l : List Nat) (g : State → Nat → State) (hg : ∀ s i, (g s i).team? c t = s.team? c t) :
      ∀ s : State, (l.foldl g s).team? c t = s.team? c t := by
    induction l with
    | nil => exact fun s => rfl
    | cons a l ih => exact fun s => (ih _).trans (hg s a)
  unfold State.emitStall
  simp only []
  split
  · exact h _ _ (fun _ _ => State.emitAt_team ..) s
  · exact (State.emitAt_team ..).trans (h _ _ (fun _ _ => State.emitAt_team ..) s)

theorem State.endStall_only (s : State) (x dp c t : Nat) : OnlyTeam s (s.endStall x dp) c t := by
  unfold State.endStall
  split
  · exact (State.emitStall_only ..).trans (OnlyTeam.modCore _ _ _ _ _ rfl)
  · exact OnlyTeam.refl ..

@[simp] theorem State.endStall_team (s : State) (x dp c t : Nat) : (s.endStall x dp).team? c t = s.team? c t := by
  unfold State.endStall; split <;> simp

theorem State.freeDp_only (s : State) (c t : Nat) : OnlyTeam s (s.freeDp c t) c t := by
  unfold State.freeDp
  split
  · split
    · exact (State.endStall_only ..).trans (OnlyTeam.modCore _ _ _ _ _ rfl)
    · exact OnlyTeam.refl ..
  · exact OnlyTeam.refl ..

@[simp] theorem State.freeDp_team (s : State) (c t x y : Nat) : (s.freeDp c t).team? x y = s.team? x y := by
  unfold State.freeDp; split
  · split <;> simp
  · rfl

theorem State.endClause_only (s : State) (c t : Nat) : OnlyTeam s (s.endClause c t) c t :=
  (OnlyTeam.modTeam _ _ _ _).trans (State.freeDp_only _ _ _)

/-- The end of a word touches the acting team, its core's trace and its datapath alone. -/
theorem State.finish_only (s : State) (c t : Nat) (z : Bool) : OnlyTeam s (s.finish c t z) c t := by
  unfold State.finish
  simp only []
  split
  · exact ((State.announced_only _ _ _).trans (OnlyTeam.modTeam _ _ _ _)).trans (State.endClause_only _ _ _)
  · exact (State.announced_only _ _ _).trans (OnlyTeam.modTeam _ _ _ _)

/-! The marks of a gather. -/

@[simp] theorem freshMarks_twice (l : List StackEntry) : freshMarks (freshMarks l) = freshMarks l := by
  simp only [freshMarks, List.map_map]
  refine List.map_congr_left fun e _ => ?_
  cases e <;> rfl

@[simp] theorem freshMarks_openMarks (l : List StackEntry) : freshMarks (openMarks l) = freshMarks l := by
  simp only [freshMarks, openMarks, List.map_map]
  refine List.map_congr_left fun e _ => ?_
  cases e with
  | path a m st => cases st <;> rfl
  | _ => rfl

/-- What a served gather leaves: the team but for the gather and the marks. -/
theorem Team.gatherDone_eq (x : Team) : x.gatherDone = { x with
    gathers := x.gatherDone.gathers, stack := x.gatherDone.stack } ∧ freshMarks x.gatherDone.stack = freshMarks x.stack := by
  unfold Team.gatherDone
  split
  · split
    · refine ⟨rfl, ?_⟩
      dsimp only
      split <;> simp
    · exact ⟨rfl, rfl⟩
  · exact ⟨rfl, rfl⟩

theorem Team.gatherDone_rest (x : Team) : x.gatherDone.rest = x.rest := by
  obtain ⟨h, k⟩ := Team.gatherDone_eq x
  rw [h]
  simp only [Team.rest, k]

/-- The acting team after the end of its word. -/
theorem State.finish_team {tm : Team} (h : s.team? c t = some tm) (z : Bool) :
    ∃ tm', (s.finish c t z).team? c t = some tm' ∧ Advanced tm tm' z ∧ tm'.rest = tm.rest ∧
      tm'.v = tm.v ∧ tm'.u = tm.u ∧ tm'.k = tm.k ∧ tm'.lat = tm.lat := by
  have h1 := State.announced_team h
  have key (x y : Team) (hx : x = y.gatherDone) (hz : z = true → y.latW = []) (ha : y.pc = tm.pc + 4) (hb : y.advs = [])
      (hc : y.words = if z then 0 else tm.words + 1) (hr : y.rest = tm.rest) (hv : y.v = tm.v) (hu : y.u = tm.u)
      (hk : y.k = tm.k) (hl : y.lat = tm.lat) :
      Advanced tm x z ∧ x.rest = tm.rest ∧ x.v = tm.v ∧ x.u = tm.u ∧ x.k = tm.k ∧ x.lat = tm.lat := by
    subst hx
    have e := (Team.gatherDone_eq y).1
    refine ⟨⟨?_, ?_, ?_, fun h => ?_⟩, (Team.gatherDone_rest y).trans hr, ?_, ?_, ?_, ?_⟩ <;> rw [e] <;>
      first | assumption | exact hz h
  unfold State.finish
  cases z
  · exact ⟨_, (State.team?_modTeam ..).trans (congrArg (Option.map _) h1),
      key _ { tm with pc := tm.pc + 4, advs := [], words := tm.words + 1, told := false, second := false, pad := none
                      look := tm.look + 1 } rfl (fun h => Bool.noConfusion h) rfl rfl rfl rfl rfl rfl rfl rfl⟩
  · simp only [↓reduceIte, State.endClause, State.freeDp_team]
    refine ⟨_, (State.team?_modTeam ..).trans
        (congrArg (Option.map _) ((State.team?_modTeam ..).trans (congrArg (Option.map _) h1))), ?_⟩
    let y : Team := { tm with pc := tm.pc + 4, advs := [], words := tm.words + 1, told := false, second := false, pad := none, look := tm.look + 1 }
    have e := (Team.gatherDone_eq y).1
    exact ⟨⟨(congrArg Team.pc e : _), rfl, rfl, fun _ => rfl⟩, Team.gatherDone_rest y, (congrArg Team.v e : _),
      (congrArg Team.u e : _), (congrArg Team.k e : _), (congrArg Team.lat e : _)⟩

/-! The checks. -/

/-- A ready word has its own effect. -/
theorem Ready.go {tm : Team} {i : Instr} {z : Bool} {w : Wide} {us : List Use} (h : Ready s c t tm i z w us) :
    tm.vetWord i z w us = .go := by
  have hb : (us.any fun u => !tm.bound u) = false := by
    simp only [List.any_eq_false]
    intro u hu
    simp [h.bound u hu]
  have hr : (decide (23 ≤ tm.words) && !z) = false := by
    rcases h.room with hw | hz
    · simp; omega
    · simp [hz]
  simp [Team.vetWord, h.legal, hr, h.joined, hb, h.latches, h.free, h.onTime, h.sound, h.good]

/-- What a ready word answers is its own effect. -/
theorem State.issue_ready {tm : Team} {i : Instr} {z : Bool} {w : Wide} {us : List Use} (h : Ready s c t tm i z w us)
    (f : Nat → Nat → Team → State → State) : s.issue i z w us f = .next (f c t tm s) := by
  simp [State.issue, State.live?, h.cur, h.team, h.live, h.go]

/-- A word whose effect is on the team alone. -/
theorem State.compute_ready {tm : Team} {i : Instr} {z : Bool} {w : Wide} {us : List Use} (h : Ready s c t tm i z w us)
    (f : Team → Team) :
    ∃ s' tm', s.compute i z w us f = .next s' ∧ s'.team? c t = some tm' ∧ Advanced (f tm) tm' z ∧
      tm'.rest = (f tm).rest ∧ tm'.v = (f tm).v ∧ tm'.u = (f tm).u ∧ tm'.k = (f tm).k ∧ tm'.lat = (f tm).lat ∧
      OnlyTeam s s' c t := by
  obtain ⟨tm', ht, ha⟩ := State.finish_team (s := s.setTeam c t (f tm)) (State.team?_setTeam s c t (f tm)) z
  exact ⟨_, tm', State.issue_ready h _, ht, ha.1, ha.2.1, ha.2.2.1, ha.2.2.2.1, ha.2.2.2.2.1, ha.2.2.2.2.2,
    (OnlyTeam.setTeam ..).trans (State.finish_only ..)⟩

end Sys2Proof.Machine
end

