-- ==== Sys2Proof/Laws/Events.lean ====
section
/-! SUPPORT. What the shared operations of copies, releases, window loads and launches answer, once for the words and
events that call them. -/

namespace Sys2Proof.Machine

variable {s : State} {c t id r : Nat} {tm : Team}

/-! Releases (R100, R307). -/

theorem State.failGate_quiet (w : Bool) (hq : s.teamRemoteQuiet c t tm = true) (hf : tm.failed = []) :
    s.failGate c t tm w = none := by
  simp [State.failGate, hq, Team.failTrap, hf]

theorem State.releaseGate_narrow (rel : Option Scope) (w : Bool) (h : wideScope rel = false) :
    s.releaseGate c t tm rel w = none := by simp [State.releaseGate, h]

theorem State.releaseGate_quiet (rel : Option Scope) (w : Bool)
    (h : wideScope rel = true → s.teamRemoteQuiet c t tm = true ∧ tm.failed = []) : s.releaseGate c t tm rel w = none := by
  unfold State.releaseGate
  split
  · exact s.failGate_quiet w (h ‹_›).1 (h ‹_›).2
  · rfl

/-- A word that does not wait at its issue has no failure to raise where none is recorded. -/
theorem State.releaseGate_clear (rel : Option Scope) (h : wideScope rel = true → tm.failed = []) :
    s.releaseGate c t tm rel false = none := by
  unfold State.releaseGate
  split
  · simp [State.failGate, Team.failTrap, h ‹_›]
  · rfl

/-! Window loads (R140). -/

theorem State.mem_winReady {x : WinLoad} :
    x ∈ s.winReady tm ↔ x ∈ tm.wld ∧ tm.mayWindow x = true ∧ s.winWaits x = false := by
  simp [State.winReady, List.mem_filter]

/-! Traps of words that have issued (R100, R426). -/

/-- The oldest window LDP whose trap is due gives a team's late trap, where no store has failed. -/
theorem Team.lateTrap_late {x : WinLoad} {r : List WinLoad} (hf : tm.failed = []) (hp : tm.p1 = false) (hl : tm.late = x :: r) :
    tm.lateTrap = some (x.trap, { tm with late := r }) := by
  simp [Team.lateTrap, Team.failLate, hf, Team.lateNow, hp, hl, Team.takeLate]

/-- One failed store that a release in the queue waited for gives a trap at that release. -/
theorem Team.lateTrap_failed {f : FailRec} {pc : DWord} (hf : tm.failed = [f]) (ha : f.at_ = some (pc, false)) (hp : tm.p1 = false) :
    tm.lateTrap = some ({ cause := f.cause, kind := .deferred, mask := some f.mask, addr := f.addr, pc := some pc },
      { tm with failed := [] }) := by
  simp [Team.lateTrap, Team.failLate, Team.failTrap, hf, ha, hp]

/-! Launches (R103, R104, R363). -/

theorem State.armedLaunch_spec {root : Bool} {ctx : Nat} {gen : Word} {k : Nat} {l : Launch}
    (h : s.armedLaunch root ctx gen = some (k, l)) :
    (k, l) ∈ s.launches ∧ (l.rank == 0) = root ∧ l.started = none ∧ l.ctx = ctx ∧ l.gen = gen := by
  have hp := List.find?_some h
  simp only [Bool.and_eq_true, beq_iff_eq, Option.isNone_iff_eq_none] at hp
  exact ⟨List.mem_of_find?_eq_some h, hp.1.1.1, hp.1.1.2, hp.1.2, hp.2⟩

theorem State.runLaunch_spec {ctx dev : Nat} {gen : Word} {k : Nat} {l : Launch} (h : s.runLaunch ctx dev gen = some (k, l)) :
    (k, l) ∈ s.launches ∧ l.rank = 0 ∧ l.started.isSome = true ∧ l.ctx = ctx ∧ l.gen = gen ∧ l.awaits dev = true := by
  have hp := List.find?_some h
  simp only [Bool.and_eq_true, beq_iff_eq] at hp
  exact ⟨List.mem_of_find?_eq_some h, hp.1.1.1.1, hp.1.1.1.2, hp.1.1.2, hp.1.2, hp.2⟩

/-! Copies (R166 to R169). -/

/-- A row that has issued issues nothing more. -/
theorem State.issueTo_issued {x : Copy} (n : Nat) (hx : s.copy? c id = some x) (h : r < x.issued) : s.issueTo c id r n = s := by
  cases n with
  | zero => rfl
  | succ n => simp [State.issueTo, hx, h]

/-- Where the next row may not issue, none does. -/
theorem State.issueTo_held {x : Copy} (n : Nat) (hx : s.copy? c id = some x) (h : s.mayIssue c x = false) :
    s.issueTo c id r n = s := by
  cases n with
  | zero => rfl
  | succ n => simp [State.issueTo, hx, h]

end Sys2Proof.Machine
end

