-- ==== Sys2Proof/Laws/Memory.lean ====
section
/-! SUPPORT. The laws of main memory: a read after a write, and that every memory operation keeps the canonical
form. -/

namespace Sys2Proof.Machine

theorem Memory.read_write (m : List Host.Cell) (a : Nat) (b : Byte) (x : Nat) :
    Memory.read (Memory.write m a b) x = if x = a then b else Memory.read m x := by
  unfold Memory.write Memory.read
  split
  · rw [PMap.get?_del]; split <;> simp_all
  · rw [PMap.get?_set]; split <;> simp_all

theorem Memory.wf_iff (m : List Host.Cell) :
    Memory.wf m = true ↔ PMap.wf m = true ∧ ∀ p ∈ m, p.2 ≠ Memory.unlisted := by
  simp [Memory.wf]

theorem Memory.filter_wf {m : List Host.Cell} (h : Memory.wf m = true) (g : Host.Cell → Bool) :
    Memory.wf (m.filter g) = true := by
  rw [Memory.wf_iff] at h ⊢
  exact ⟨PMap.filter_wf h.1 g, fun p hp => h.2 p (List.mem_filter.mp hp).1⟩

theorem Memory.write_wf {m : List Host.Cell} (h : Memory.wf m = true) (a : Nat) (b : Byte) :
    Memory.wf (Memory.write m a b) = true := by
  unfold Memory.write
  split
  · exact Memory.filter_wf h _
  · rename_i hb
    rw [Memory.wf_iff] at h ⊢
    refine ⟨PMap.set_wf h.1 a b, fun p hp => ?_⟩
    rcases PMap.mem_set hp with rfl | hp
    · exact hb
    · exact h.2 p hp

theorem Memory.writes_wf {m : List Host.Cell} (h : Memory.wf m = true) (w : List (Nat × Byte)) :
    Memory.wf (Memory.writes m w) = true := by
  unfold Memory.writes
  induction w generalizing m with
  | nil => exact h
  | cons p w ih => exact ih (Memory.write_wf h _ _)

/-- The zeroing of a free row (R71) keeps the form. -/
theorem Memory.touchRow_wf {s : State} (h : Memory.wf s.mem = true) (pa : Nat) :
    Memory.wf (s.touchRow pa).mem = true := by
  unfold State.touchRow
  simp only []
  split
  · exact Memory.filter_wf h _
  · exact h

end Sys2Proof.Machine
end

