-- ==== Sys2Proof/Laws/Operands.lean ====
section
/-! SUPPORT. What a lane instruction's result writes: its destination registers, its class latch, and nothing
else of the team (R44 to R46). -/

namespace Sys2Proof.Machine

variable {t : Team}

/-! One register. -/

theorem Team.setLane_laneHeld (t : Team) (l r : Nat) (x : Reg) (l' r' : Nat) (h : r < 1024) (h' : r' < 1024) :
    (t.setLane l r x).laneHeld l' r' = if l' = l ∧ r' = r then x else t.laneHeld l' r' := by
  unfold Team.laneHeld Team.setLane
  simp only [PMap.get?_set]
  by_cases e : l' = l ∧ r' = r
  · obtain ⟨rfl, rfl⟩ := e; simp
  · rw [if_neg (by omega), if_neg e]; rfl

@[simp] theorem Team.setLane_uniHeld (t : Team) (l r : Nat) (x : Reg) (i : Nat) :
    (t.setLane l r x).uniHeld i = t.uniHeld i := rfl

theorem Team.setUni_uniHeld (t : Team) (r : Nat) (x : UReg) (i : Nat) :
    (t.setUni r x).uniHeld i = if i = r then x else t.uniHeld i := by
  unfold Team.uniHeld Team.setUni
  simp only [PMap.get?_set]
  by_cases h : i = r
  · rw [if_pos h, if_pos h]
  · rw [if_neg h, if_neg h]

@[simp] theorem Team.setUni_laneHeld (t : Team) (r : Nat) (x : UReg) (l' r' : Nat) :
    (t.setUni r x).laneHeld l' r' = t.laneHeld l' r' := rfl

/-! The registers of one lane's destination. -/

/-- A team without its registers, its latches and what their parity and poison marks say. -/
def Team.still (t : Team) : Team := { t with v := [], u := [], lat := [], latW := [], bad := [], upV := [], upU := [] }

/-- What neither registers nor latches are: equal in two teams. -/
def Team.sameElse (t t' : Team) : Prop := t'.still = t.still ∧ t'.latW = t.latW

theorem Team.sameElse.trans {a b c : Team} (h : a.sameElse b) (h' : b.sameElse c) : a.sameElse c :=
  ⟨h'.1.trans h.1, h'.2.trans h.2⟩

theorem part_eq (x : DWord) (k : Nat) : BitVec.ofNat 32 (x.toNat / 2 ^ (32 * k) % 2 ^ 32) = part x k := by
  apply BitVec.eq_of_toNat_eq
  simp [part, Nat.shiftRight_eq_div_pow]

theorem Team.putDest_lane (t : Team) (l r : Nat) (taint : Bool) (all : LaneMask) (x : DWord) (n : Nat) (h : r + n ≤ 1024) :
    (∀ l' r', r' < 1024 → (t.putDest l (.lane r) taint all x.toNat n).laneHeld l' r' =
      if l' = l ∧ r ≤ r' ∧ r' < r + n then ⟨part x (r' - r), taint⟩ else t.laneHeld l' r') ∧
    (∀ i, (t.putDest l (.lane r) taint all x.toNat n).uniHeld i = t.uniHeld i) ∧
    (t.putDest l (.lane r) taint all x.toNat n).lat = t.lat ∧
    t.sameElse (t.putDest l (.lane r) taint all x.toNat n) := by
  induction n with
  | zero => exact ⟨fun l' r' _ => by rw [if_neg (by omega)]; rfl, fun _ => rfl, rfl, rfl, rfl⟩
  | succ n ih =>
    obtain ⟨h1, h2, h3, h4⟩ := ih (by omega)
    refine ⟨fun l' r' hr => ?_, h2, h3, h4⟩
    show (Team.setLane _ _ _ _).laneHeld l' r' = _
    rw [Team.setLane_laneHeld _ _ _ _ _ _ (by omega) hr, h1 l' r' hr, part_eq]
    by_cases hl : l' = l
    · by_cases hn : r' = r + n
      · subst hn; rw [if_pos ⟨hl, rfl⟩, if_pos ⟨hl, by omega, by omega⟩]; congr 2; omega
      · rw [if_neg (fun e => hn e.2)]
        by_cases hb : r ≤ r' ∧ r' < r + n
        · rw [if_pos ⟨hl, hb⟩, if_pos ⟨hl, by omega⟩]
        · rw [if_neg (fun e => hb e.2), if_neg (fun e => hb (by omega))]
    · rw [if_neg (fun e => hl e.1), if_neg (fun e => hl e.1), if_neg (fun e => hl e.1)]

theorem Team.putDest_uni (t : Team) (l r : Nat) (taint : Bool) (all : LaneMask) (x : DWord) (n : Nat) :
    (∀ l' r', (t.putDest l (.uni r) taint all x.toNat n).laneHeld l' r' = t.laneHeld l' r') ∧
    (∀ i, (t.putDest l (.uni r) taint all x.toNat n).uniHeld i =
      if r ≤ i ∧ i < r + n then ⟨part x (i - r), all⟩ else t.uniHeld i) ∧
    (t.putDest l (.uni r) taint all x.toNat n).lat = t.lat ∧
    t.sameElse (t.putDest l (.uni r) taint all x.toNat n) := by
  induction n with
  | zero => exact ⟨fun _ _ => rfl, fun i => by rw [if_neg (by omega)]; rfl, rfl, rfl, rfl⟩
  | succ n ih =>
    obtain ⟨h1, h2, h3, h4⟩ := ih
    refine ⟨h1, fun i => ?_, h3, h4⟩
    show (Team.setUni _ _ _).uniHeld i = _
    rw [Team.setUni_uniHeld, h2 i, part_eq]
    by_cases hn : i = r + n
    · subst hn; rw [if_pos rfl, if_pos (by omega)]; congr 2; omega
    · rw [if_neg hn]
      by_cases hb : r ≤ i ∧ i < r + n
      · rw [if_pos hb, if_pos (by omega)]
      · rw [if_neg hb, if_neg (by omega)]

/-! All lanes of a result. -/

/-- Results of a list of lanes. -/
def laneVals (ls : List Nat) (x : Nat → Latch) : List LaneVal := ls.map fun l => ⟨l, (x l).val, (x l).taint⟩

theorem Team.each_eq (t : Team) (x : Nat → Latch) : t.each x = laneVals t.parts x := rfl

theorem Team.putLanes (t : Team) (ls : List Nat) (x : Nat → Latch) (b n : Nat) (h : b + n ≤ 1024) :
    let t' := (laneVals ls x).foldl (fun t y => t.putDest y.lane (.lane b) y.taint 0 y.val.toNat n) t
    (∀ l r, r < 1024 → t'.laneHeld l r =
      if l ∈ ls ∧ b ≤ r ∧ r < b + n then ⟨part (x l).val (r - b), (x l).taint⟩ else t.laneHeld l r) ∧
    (∀ i, t'.uniHeld i = t.uniHeld i) ∧ t'.lat = t.lat ∧ t.sameElse t' := by
  induction ls generalizing t with
  | nil => exact ⟨fun _ _ _ => by simp [laneVals], fun _ => rfl, rfl, rfl, rfl⟩
  | cons a ls ih =>
    obtain ⟨p1, p2, p3, p4⟩ := Team.putDest_lane t a b (x a).taint 0 (x a).val n h
    obtain ⟨h1, h2, h3, h4⟩ := ih (t.putDest a (.lane b) (x a).taint 0 (x a).val.toNat n)
    refine ⟨fun l r hr => ?_, fun i => (h2 i).trans (p2 i), h3.trans p3, p4.trans h4⟩
    refine (h1 l r hr).trans ?_
    rw [p1 l r hr]
    by_cases hb : b ≤ r ∧ r < b + n
    · by_cases hl : l ∈ ls
      · rw [if_pos ⟨hl, hb⟩, if_pos ⟨List.mem_cons_of_mem _ hl, hb⟩]
      · rw [if_neg (fun e => hl e.1)]
        by_cases ha : l = a
        · subst ha; rw [if_pos ⟨rfl, hb⟩, if_pos ⟨List.mem_cons_self, hb⟩]
        · rw [if_neg (fun e => ha e.1), if_neg (fun e => by rcases List.mem_cons.mp e.1 with e | e <;> contradiction)]
    · rw [if_neg (fun e => hb e.2), if_neg (fun e => hb e.2), if_neg (fun e => hb e.2)]

theorem find_laneVals (ls : List Nat) (x : Nat → Latch) (l : Nat) (h : l ∈ ls) :
    (laneVals ls x).find? (fun y => y.lane == l) = some ⟨l, (x l).val, (x l).taint⟩ := by
  induction ls with
  | nil => simp at h
  | cons a ls ih =>
    rw [laneVals, List.map_cons, List.find?_cons]
    by_cases e : a = l
    · subst e; simp
    · rw [show ((a == l) = false) by simpa using e]
      exact ih (by rcases List.mem_cons.mp h with h | h; exact absurd h.symm e; exact h)

theorem taintMask_laneVals (ls : List Nat) (x : Nat → Latch) :
    taintMask (laneVals ls x) = maskOf (ls.filter fun l => (x l).taint) := by
  refine congrArg maskOf ?_
  induction ls with
  | nil => rfl
  | cons a ls ih =>
    simp only [laneVals, List.map_cons, List.filter_cons] at ih ⊢
    split <;> simp [ih]

/-- An active lane computes. -/
theorem Team.active_parts {l : Nat} (h : l ∈ t.active) : l ∈ t.parts := by
  simp only [Team.active, Team.lanesOf, Team.parts, List.mem_filter] at h ⊢
  exact ⟨h.1, by simp [h.2]⟩

theorem Team.first_parts (h : t.active ≠ []) : t.first ∈ t.parts := by
  apply Team.active_parts
  unfold Team.first
  cases e : t.active with
  | nil => exact absurd e h
  | cons a l => simp

/-- The destination registers of a result. -/
theorem Team.writeDst_written (t : Team) (d : Opd) (n : Bool) (regs : Nat) (x : Nat → Latch)
    (hr : regs ≤ 4) (ha : t.active ≠ []) :
    Written t (t.writeDst d n regs (t.each x)) d n regs x ∧ (t.writeDst d n regs (t.each x)).lat = t.lat ∧
      t.sameElse (t.writeDst d n regs (t.each x)) := by
  have nothing (h : t.writeDst d n regs (t.each x) = t) (hd : n = true ∨ (∀ k, d ≠ .v k) ∧ ∀ k, d ≠ .s k) :
      Written t (t.writeDst d n regs (t.each x)) d n regs x ∧ (t.writeDst d n regs (t.each x)).lat = t.lat ∧
      t.sameElse (t.writeDst d n regs (t.each x)) := by
    rw [h]
    refine ⟨⟨fun l r _ => ?_, fun r => ?_⟩, rfl, rfl, rfl⟩
    · rcases hd with rfl | hd
      · cases d <;> rfl
      · cases d with
        | v k => exact absurd rfl (hd.1 k)
        | _ => rfl
    · rcases hd with rfl | hd
      · cases d <;> rfl
      · cases d with
        | s k => exact absurd rfl (hd.2 k)
        | _ => rfl
  cases n with
  | true => exact nothing rfl (.inl rfl)
  | false =>
    cases d with
    | e k => exact nothing rfl (.inr ⟨fun _ h => (nomatch h), fun _ h => (nomatch h)⟩)
    | zero => exact nothing rfl (.inr ⟨fun _ h => (nomatch h), fun _ h => (nomatch h)⟩)
    | v k =>
      have hk := k.isLt
      have hi := t.ix.isLt
      obtain ⟨h1, h2, h3, h4⟩ := Team.putLanes t t.parts x (t.ix.toNat + k.val) regs (by omega)
      exact ⟨⟨h1, h2⟩, h3, h4⟩
    | s k =>
      have e : t.writeDst (.s k) false regs (t.each x) =
          t.putDest t.first (.uni (t.six.toNat + k.val)) (x t.first).taint (maskOf (t.parts.filter fun l => (x l).taint))
            (x t.first).val.toNat regs := by
        simp [Team.writeDst, Team.dest, Team.each_eq, find_laneVals _ _ _ (Team.first_parts ha), taintMask_laneVals]
      rw [e]
      obtain ⟨h1, h2, h3, h4⟩ := Team.putDest_uni t t.first (t.six.toNat + k.val) (x t.first).taint
        (maskOf (t.parts.filter fun l => (x l).taint)) (x t.first).val regs
      exact ⟨⟨fun l r _ => h1 l r, h2⟩, h3, h4⟩

/-! Latches. -/

theorem latch_of_lat {t t' : Team} (h : t'.lat = t.lat) (l e : Nat) : t'.latch l e = t.latch l e := by
  simp only [Team.latch, h]

theorem foldl_latch (ls : List Nat) (x : Nat → Latch) (c : Nat) (m : PMap Latch) (l e : Nat) (hc : c < 8) (he : e < 8) :
    PMap.get? ((laneVals ls x).foldl (fun m y => PMap.set m (8 * y.lane + c) ⟨y.val, y.taint⟩) m) (8 * l + e) =
      if l ∈ ls ∧ e = c then some (x l) else PMap.get? m (8 * l + e) := by
  induction ls generalizing m with
  | nil => simp [laneVals]
  | cons a ls ih =>
    rw [laneVals, List.map_cons, List.foldl_cons]
    refine (ih _).trans ?_
    rw [PMap.get?_set]
    simp only []
    by_cases hl : l ∈ ls ∧ e = c
    · rw [if_pos hl, if_pos ⟨List.mem_cons_of_mem _ hl.1, hl.2⟩]
    · rw [if_neg hl]
      by_cases ha : l = a ∧ e = c
      · obtain ⟨rfl, rfl⟩ := ha
        rw [if_pos rfl, if_pos ⟨List.mem_cons_self, rfl⟩]
      · rw [if_neg (by omega), if_neg]
        rintro ⟨hm, rfl⟩
        rcases List.mem_cons.mp hm with rfl | hm
        · exact ha ⟨rfl, rfl⟩
        · exact hl ⟨hm, rfl⟩

theorem foldl_shift (g : Nat → Latch) (w n : Nat) (m : PMap Latch) (l e : Nat) (he : e < 8) :
    PMap.get? ((List.range n).foldl (fun m i => PMap.set m (8 * (32 * w + i) + 1) (g (32 * w + i))) m) (8 * l + e) =
      if e = 1 ∧ 32 * w ≤ l ∧ l < 32 * w + n then some (g l) else PMap.get? m (8 * l + e) := by
  induction n with
  | zero => rw [if_neg (by omega)]; rfl
  | succ n ih =>
    rw [List.range_succ, List.foldl_append, List.foldl_cons, List.foldl_nil, PMap.get?_set, ih]
    by_cases h : e = 1 ∧ l = 32 * w + n
    · obtain ⟨rfl, rfl⟩ := h
      rw [if_pos rfl, if_pos (by omega)]
    · rw [if_neg (by omega)]
      by_cases h' : e = 1 ∧ 32 * w ≤ l ∧ l < 32 * w + n
      · rw [if_pos h', if_pos (by omega)]
      · rw [if_neg h', if_neg (by omega)]

/-- What leaves everything but latches. -/
def Team.butLat (t t' : Team) : Prop := t'.still = t.still ∧ t'.v = t.v ∧ t'.u = t.u

theorem Team.butLat.trans {a b c : Team} (h : a.butLat b) (h' : b.butLat c) : a.butLat c :=
  ⟨h'.1.trans h.1, h'.2.1.trans h.2.1, h'.2.2.trans h.2.2⟩

theorem Team.shiftE0_butLat (t : Team) (w : Nat) : t.butLat (t.shiftE0 w) := by
  refine ⟨?_, ?_, ?_⟩ <;> simp only [Team.shiftE0, Team.still]

theorem Team.shiftE0_spec (t : Team) (w : Nat) (l e : Nat) (he : e < 8) :
    (t.shiftE0 w).latch l e = if e = 1 ∧ warpOf l = w then t.latch l 0 else t.latch l e := by
  have hf : PMap.get? (t.shiftedLat w) (8 * l + e) = _ := foldl_shift (fun l => t.latch l 0) w 32 t.lat l e he
  have hl : (t.shiftE0 w).latch l e = (PMap.get? (t.shiftedLat w) (8 * l + e)).getD ⟨0, false⟩ := by
    rw [Team.shiftE0, Team.latch]
  rw [hl, hf]
  by_cases h : e = 1 ∧ warpOf l = w
  · rw [if_pos h, if_pos (by simp only [warpOf] at h; omega), Option.getD_some]
  · rw [if_neg h, if_neg (by simp only [warpOf] at h; omega), Team.latch]

theorem Team.shiftAll_spec (ws : List Nat) (t : Team) :
    (∀ l e, e < 8 → (ws.foldl Team.shiftE0 t).latch l e =
      if e = 1 ∧ warpOf l ∈ ws then t.latch l 0 else t.latch l e) ∧ t.butLat (ws.foldl Team.shiftE0 t) := by
  induction ws generalizing t with
  | nil => exact ⟨fun _ _ _ => by simp, rfl, rfl, rfl⟩
  | cons w ws ih =>
    have p := Team.shiftE0_spec t w
    have q := Team.shiftE0_butLat t w
    obtain ⟨h, k⟩ := ih (t.shiftE0 w)
    rw [List.foldl_cons]
    refine ⟨fun l e he => ?_, q.trans k⟩
    rw [h l e he, p l 0 (by omega), p l e he]
    by_cases e1 : e = 1
    · subst e1
      by_cases hw : warpOf l = w
      · by_cases hm : warpOf l ∈ ws <;> simp [hw]
      · by_cases hm : warpOf l ∈ ws <;> simp [hm, hw]
    · simp [e1]

theorem foldl_idle (g : Nat → Latch) (skip : Nat → Bool) (c : Nat) (ls : List Nat) (m : PMap Latch) (l e : Nat)
    (h : e = c → l ∉ ls) (hc : c < 8) (he : e < 8) :
    PMap.get? (ls.foldl (fun m l => if skip l then m else PMap.set m (8 * l + c) (g l)) m) (8 * l + e) =
      PMap.get? m (8 * l + e) := by
  induction ls generalizing m with
  | nil => rfl
  | cons a ls ih =>
    rw [List.foldl_cons, ih _ (fun hh hl => h hh (List.mem_cons_of_mem _ hl))]
    split
    · rfl
    · rw [PMap.get?_set, if_neg]
      intro k
      exact h (by omega) (by rw [show l = a by omega]; exact List.mem_cons_self)

/-- Latch elements of lanes that computed nothing: other elements stay (R198). -/
theorem Team.idleAll_spec (c : Cls) (res : List LaneVal) (ws : List Nat) (t : Team) :
    (∀ l e, e < 8 → (e = c.latch → warpOf l ∉ ws) →
      (ws.foldl (fun (t : Team) w => { t with lat := t.idleLat c res w }) t).latch l e = t.latch l e) ∧
    t.butLat (ws.foldl (fun (t : Team) w => { t with lat := t.idleLat c res w }) t) := by
  have hc : c.latch < 8 := by cases c <;> decide
  induction ws generalizing t with
  | nil => exact ⟨fun _ _ _ _ => rfl, rfl, rfl, rfl⟩
  | cons w ws ih =>
    obtain ⟨h, k⟩ := ih { t with lat := t.idleLat c res w }
    refine ⟨fun l e he hn => ?_, Team.butLat.trans ⟨rfl, rfl, rfl⟩ k⟩
    rw [List.foldl_cons, h l e he (fun hh hm => hn hh (List.mem_cons_of_mem _ hm))]
    refine congrArg (fun o => Option.getD o _) ((foldl_idle
      (fun l => ⟨Config.free64 (2 ^ 70 + (t.look * 1024 + l) * 8 + c.latch),
        (Config.free64 (2 ^ 70 + (t.look * 1024 + l) * 8 + c.latch)).getLsbD 63⟩) (fun l => res.any (·.lane == l))
      c.latch _ t.lat l e (fun hh hl => hn hh ?_) hc he) :)
    obtain ⟨i, hi, rfl⟩ := List.mem_map.mp hl
    rw [List.mem_range] at hi
    rw [show warpOf (32 * w + i) = w by simp only [warpOf]; omega]
    exact List.mem_cons_self

/-- A helper lane stands in a warp of the path. -/
theorem Team.parts_warps {l : Nat} (h : l ∈ t.parts) (hs : t.size % 4 = 0) : warpOf l ∈ t.warps := by
  have key : ∀ a, a ∈ t.active → warpOf a = warpOf l → warpOf l ∈ t.warps := fun a ha e => by
    unfold Team.warps
    rw [List.mem_eraseDups]
    exact e ▸ List.mem_map_of_mem ha
  simp only [Team.parts, List.mem_filter, List.mem_range, Bool.or_eq_true] at h
  obtain ⟨hl, h | h⟩ := h
  · exact key l (by simp [Team.active, Team.lanesOf, hl, h]) rfl
  · simp only [Team.helps, Bool.and_eq_true, quadActive, List.any_eq_true, List.mem_range] at h
    obtain ⟨-, i, hi, hb⟩ := h
    refine key (l / 4 * 4 + i) ?_ (by simp only [warpOf]; omega)
    simp only [Team.active, Team.lanesOf, List.mem_filter, List.mem_range]
    exact ⟨by omega, hb⟩

/-- WHAT A RESULT WRITES. -/
theorem Team.result_spec (t : Team) (c : Cls) (d : Opd) (n : Bool) (regs : Nat) (x : Nat → Latch)
    (hr : regs ≤ 4) (ha : t.active ≠ []) :
    Written t (t.result c d n regs (t.each x)) d n regs x ∧ Latched t (t.result c d n regs (t.each x)) c x ∧
      (t.result c d n regs (t.each x)).still = t.still := by
  obtain ⟨hw, hlat, hs⟩ := Team.writeDst_written t d n regs x hr ha
  generalize ht : t.writeDst d n regs (t.each x) = u at *
  have hwarps : u.warps = t.warps := by
    have h1 : u.act = t.act := (congrArg Team.act hs.1 : _)
    have h2 : u.size = t.size := (congrArg Team.size hs.1 : _)
    simp only [Team.warps, Team.active, Team.lanesOf, h1, h2]
  have hc : c.latch < 8 := by cases c <;> decide
  obtain ⟨p, q⟩ := Team.shiftAll_spec u.warps u
  have main : ∀ u' : Team, u.butLat u' →
      (∀ l e, e < 8 → (e = c.latch → warpOf l ∉ u.warps) → u'.latch l e =
        if c = .int ∧ e = 1 ∧ warpOf l ∈ u.warps then u.latch l 0 else u.latch l e) →
      (t.result c d n regs (t.each x)) = { u' with
        lat := (t.each x).foldl (fun m y => PMap.set m (8 * y.lane + c.latch) ⟨y.val, y.taint⟩) u'.lat
        latW := u.warps.foldl (fun l w => if l.contains (8 * w + c.latch) then l else (8 * w + c.latch) :: l) u'.latW } →
      Written t (t.result c d n regs (t.each x)) d n regs x ∧ Latched t (t.result c d n regs (t.each x)) c x ∧
      (t.result c d n regs (t.each x)).still = t.still := by
    intro u' hq hp he
    rw [he]
    have hv : ∀ l r, u'.laneHeld l r = u.laneHeld l r := fun l r => by
      have h := hq.1
      have ha : u'.allot = u.allot := (congrArg Team.allot h : _)
      have hh : u'.hSeed = u.hSeed := (congrArg Team.hSeed h : _)
      have hvs : u'.vSeed = u.vSeed := (congrArg Team.vSeed h : _)
      have hd : u'.dead = u.dead := (congrArg Team.dead h : _)
      have hcl : u'.cleanAt = u.cleanAt := (congrArg Team.cleanAt h : _)
      simp only [Team.laneHeld, Team.laneSeed, hq.2.1, ha, hh, hvs, hd, hcl]
    have huh : ∀ i, u'.uniHeld i = u.uniHeld i := fun i => by
      have h := hq.1
      have hh : u'.hSeed = u.hSeed := (congrArg Team.hSeed h : _)
      have hvs : u'.uSeed = u.uSeed := (congrArg Team.uSeed h : _)
      have hcl : u'.cleanAt = u.cleanAt := (congrArg Team.cleanAt h : _)
      simp only [Team.uniHeld, hq.2.2, hh, hvs, hcl]
    refine ⟨⟨fun l r hr => (hv l r).trans (hw.lane l r hr), fun r => (huh r).trans (hw.uni r)⟩, fun l e he hi => ?_,
      hq.1.trans hs.1⟩
    show (PMap.get? ((t.each x).foldl (fun m y => PMap.set m (8 * y.lane + c.latch) ⟨y.val, y.taint⟩) u'.lat) (8 * l + e)).getD _ = _
    rw [Team.each_eq]
    refine (congrArg (fun o => Option.getD o _) (foldl_latch t.parts x c.latch u'.lat l e hc he)).trans ?_
    by_cases hl : l ∈ t.parts ∧ e = c.latch
    · rw [if_pos hl, if_pos hl]; rfl
    · rw [if_neg hl, if_neg hl]
      refine (hp l e he (fun k => hwarps ▸ hi k (fun m => hl ⟨m, k⟩))).trans ?_
      rw [hwarps, latch_of_lat hlat, latch_of_lat hlat]
  have idle (u₀ : Team) := Team.idleAll_spec c (t.each x) u.warps u₀
  by_cases hci : c = .int
  · subst hci
    exact main _ (q.trans (idle _).2) (fun l e he hn => by rw [(idle _).1 l e he hn, p l e he]; simp) (by
      rw [Team.result, ht, Team.writeLatch]; simp only [↓reduceIte])
  · exact main _ (Team.butLat.trans ⟨rfl, rfl, rfl⟩ (idle u).2)
      (fun l e he hn => by rw [(idle u).1 l e he hn]; simp [hci]) (by
      rw [Team.result, ht, Team.writeLatch]; simp only [hci, ↓reduceIte])

end Sys2Proof.Machine
end

