-- ==== Sys2Proof/Laws/Words.lean ====
section
/-! SUPPORT. From a meaning's shape to what the word does: one lemma for each shape of a word whose effect is on
its team alone. -/

namespace Sys2Proof.Machine

/-- Registers are read of equal teams alike. -/
theorem laneHeld_congr {a b : Team} (h : b.rest = a.rest) (hv : b.v = a.v) (l r : Nat) : b.laneHeld l r = a.laneHeld l r := by
  have h1 : b.allot = a.allot := (congrArg Team.allot h : _)
  have h2 : b.hSeed = a.hSeed := (congrArg Team.hSeed h : _)
  have h3 : b.vSeed = a.vSeed := (congrArg Team.vSeed h : _)
  have h4 : b.dead = a.dead := (congrArg Team.dead h : _)
  have h5 : b.cleanAt = a.cleanAt := (congrArg Team.cleanAt h : _)
  simp only [Team.laneHeld, Team.laneSeed, hv, h1, h2, h3, h4, h5]

theorem uniHeld_congr {a b : Team} (h : b.rest = a.rest) (hu : b.u = a.u) (r : Nat) : b.uniHeld r = a.uniHeld r := by
  have h2 : b.hSeed = a.hSeed := (congrArg Team.hSeed h : _)
  have h3 : b.uSeed = a.uSeed := (congrArg Team.uSeed h : _)
  have h5 : b.cleanAt = a.cleanAt := (congrArg Team.cleanAt h : _)
  simp only [Team.uniHeld, hu, h2, h3, h5]

/-- A lane instruction: its meaning computes one result from the team as it stands. -/
theorem laneWord_of {i : Instr} {z : Bool} {w : Wide} {us : List Use} {d : Opd} {n : Bool} {regs : Nat} {cls : Cls}
    {x : Team → Nat → Latch} (hr : regs ≤ 4)
    (he : ∀ s, exec i s = s.compute i z w us fun t => t.result cls d n regs (t.each (x t))) :
    LaneWord i z w us d n regs cls x := by
  intro s c t tm h
  obtain ⟨hw, hl, hq⟩ := Team.result_spec tm cls d n regs (x tm) hr h.lanes
  obtain ⟨s', tm', e, ht, ha, hrest, hv, hu, hkk, hlat, ho⟩ :=
    State.compute_ready h fun t => t.result cls d n regs (t.each (x t))
  have hpc : (tm.result cls d n regs (tm.each (x tm))).pc = tm.pc := (congrArg Team.pc hq : _)
  have hwd : (tm.result cls d n regs (tm.each (x tm))).words = tm.words := (congrArg Team.words hq : _)
  have hk : (tm.result cls d n regs (tm.each (x tm))).k = tm.k := (congrArg Team.k hq : _)
  refine ⟨s', tm', (he s).trans e, ht, ⟨ha.pc.trans (by rw [hpc]), ha.advs,
      ha.words.trans (by rw [hwd]), ha.latW⟩,
    ⟨fun l r hr => (laneHeld_congr hrest hv l r).trans (hw.lane l r hr), fun r => (uniHeld_congr hrest hu r).trans (hw.uni r)⟩,
    fun l e he hn => (latch_of_lat hlat l e).trans (hl l e he hn), fun l k => ?_, hrest.trans ?_, ho⟩
  · simp only [Team.flag, hkk, hk]
  · exact (congrArg Team.rest hq : _)

/-- Flags written for each computing lane. -/
theorem setFlags_flag (t : Team) (k : BitVec 3) (g : Nat → Bool) (ls : List Nat) (l : Nat) (j : BitVec 3) :
    (t.setFlags k (ls.map fun l => (l, g l))).flag l j = if l ∈ ls ∧ j = k then g l else t.flag l j := by
  have hk := k.isLt
  have hj := j.isLt
  have key : ∀ (ls : List Nat) (m : PMap Bool),
      PMap.get? ((ls.map fun l => (l, g l)).foldl (fun m x => PMap.set m (8 * x.1 + k.toNat) x.2) m) (8 * l + j.toNat) =
        if l ∈ ls ∧ j = k then some (g l) else PMap.get? m (8 * l + j.toNat) := by
    intro ls
    induction ls with
    | nil => intro m; simp
    | cons a ls ih =>
      intro m
      rw [List.map_cons, List.foldl_cons, ih, PMap.get?_set]
      by_cases hl : l ∈ ls ∧ j = k
      · rw [if_pos hl, if_pos ⟨List.mem_cons_of_mem _ hl.1, hl.2⟩]
      · rw [if_neg hl]
        by_cases ha : l = a ∧ j = k
        · obtain ⟨rfl, rfl⟩ := ha
          rw [if_pos rfl, if_pos ⟨List.mem_cons_self, rfl⟩]
        · have hne : ¬ (8 * l + j.toNat = 8 * a + k.toNat) := fun e => ha
            ⟨by omega, BitVec.eq_of_toNat_eq (by omega)⟩
          simp only []
          rw [if_neg hne, if_neg]
          rintro ⟨hm, rfl⟩
          rcases List.mem_cons.mp hm with rfl | hm
          · exact ha ⟨rfl, rfl⟩
          · exact hl ⟨hm, rfl⟩
  have := key ls t.k
  simp only [Team.flag, Team.setFlags, this]
  split <;> rfl

/-- A flag instruction. -/
theorem flagWord_of {i : Instr} {z : Bool} {w : Wide} {us : List Use} {k : BitVec 3} {x : Team → Nat → Bool}
    (he : ∀ s, exec i s = s.compute i z w us fun t => t.setFlags k (t.flagsOf (x t))) : FlagWord i z w us k x := by
  intro s c t tm h
  obtain ⟨s', tm', e, ht, ha, hrest, hv, hu, hkk, hlat, ho⟩ :=
    State.compute_ready h fun t => t.setFlags k (t.flagsOf (x t))
  refine ⟨s', tm', (he s).trans e, ht, ⟨ha.pc, ha.advs, ha.words, ha.latW⟩, fun l j => ?_,
    ⟨fun l r _ => laneHeld_congr hrest hv l r, fun r => uniHeld_congr hrest hu r⟩,
    fun l e _ => latch_of_lat hlat l e, hrest, ho⟩
  rw [← setFlags_flag tm k (x tm) tm.parts l j]
  simp only [Team.flag, hkk]
  rfl

/-- An instruction on special registers. -/
theorem teamWord_of {i : Instr} {z : Bool} {us : List Use} {g : Team → Team}
    (he : ∀ s, exec i s = s.compute i z .no us g)
    (hg : ∀ t, (g t).v = t.v ∧ (g t).u = t.u ∧ (g t).k = t.k ∧ (g t).lat = t.lat ∧ (g t).pc = t.pc ∧ (g t).words = t.words ∧
      (g t).allot = t.allot ∧ (g t).hSeed = t.hSeed ∧ (g t).vSeed = t.vSeed ∧ (g t).uSeed = t.uSeed ∧ (g t).dead = t.dead ∧
      (g t).cleanAt = t.cleanAt) : TeamWord i z us g := by
  intro s c t tm h
  obtain ⟨s', tm', e, ht, ha, hrest, hv, hu, hkk, hlat, ho⟩ := State.compute_ready h g
  obtain ⟨g1, g2, g3, g4, g5, g6, g7, g8, g9, g10, g11, g12⟩ := hg tm
  refine ⟨s', tm', (he s).trans e, ht, ⟨ha.pc.trans (by rw [g5]), ha.advs, ha.words.trans (by rw [g6]), ha.latW⟩,
    ⟨fun l r _ => (laneHeld_congr hrest hv l r).trans ?_, fun r => (uniHeld_congr hrest hu r).trans ?_⟩,
    fun l k => ?_, fun l e _ => ?_, hrest, ho⟩
  · simp only [Team.laneHeld, Team.laneSeed, g1, g7, g8, g9, g11, g12]
  · simp only [Team.uniHeld, g2, g8, g10, g12]
  · simp only [Team.flag, hkk, g3]
  · simp only [Team.latch, hlat, g4]

end Sys2Proof.Machine
end

