-- ==== Sys2Proof/Tests/Slice0.lean ====
section
/-! SUPPORT. The model's own tests: words refused, words decoded, words executed, and for each statement's hypotheses a
state that meets them. -/

namespace Sys2Proof.Tests

open Sys2Proof Sys2Proof.Machine

/- Many small theorems by `decide` would otherwise wait for each other, each in a thread of its own. -/
set_option Elab.async false

/-! A small machine to try words on: one team of four lanes at 0x10000, with 64 registers a lane. -/

/-- The team, with some values in its registers: v0 = 7, v1 = 0 and s0 = 5 in lane 0. -/
def tmA : Team :=
  { Team.initial 0x10000 4 64 0 false 0 0 0 none none 0 with
    v := [(0, ⟨7, false⟩), (1024, ⟨8, false⟩), (2048, ⟨9, false⟩), (3072, ⟨10, false⟩)], u := [(0, ⟨5, 0⟩)] }

/-- The team of a device on which nothing else runs; its context has a handler at 0x40000. -/
def sys (tm : Team) : State :=
  let s := { State.reset.placeWord 0 with sched := [], ctxs := [(0, ⟨0, 0x40000, 0, 0, 1, 100, 0⟩)] }
  s.setTeam 0 0 tm

/-- The fields of `Ready`, as one Bool. -/
def readyB (tm : Team) (i : Instr) (z : Bool) (w : Wide) (us : List Use) : Bool :=
  tm.status == .live && !tm.active.isEmpty && i.legal && (decide (tm.words < 23) || z) && (tm.gatherFor w).isNone && us.all tm.bound &&
    (tm.stale us).isNone && (tm.lockers us).isEmpty && (tm.upset us).isEmpty && (tm.badRead us).isEmpty && (tm.lateRead us).isNone

theorem ready_in (s : State) (tm : Team) (i : Instr) (z : Bool) (w : Wide) (us : List Use) (hc : s.cur = ⟨0, 0⟩)
    (ht : s.team? 0 0 = some tm) (h : readyB tm i z w us = true) : Ready s 0 0 tm i z w us := by
  simp only [readyB, Bool.and_eq_true, beq_iff_eq, Bool.not_eq_true', List.isEmpty_eq_false_iff, Bool.or_eq_true,
    decide_eq_true_eq, Option.isNone_iff_eq_none, List.all_eq_true, List.isEmpty_iff] at h
  obtain ⟨⟨⟨⟨⟨⟨⟨⟨⟨⟨h0, h1⟩, h2⟩, h3⟩, h4⟩, h5⟩, h6⟩, h7⟩, h8⟩, h9⟩, h10⟩ := h
  exact ⟨hc, ht, h0, h1, h2, h3, h4, h5, h6, h7, h10, h8, h9⟩

theorem ready_of (tm : Team) (i : Instr) (z : Bool) (w : Wide) (us : List Use) (h : readyB tm i z w us = true) :
    Ready (sys tm) 0 0 tm i z w us := ready_in _ _ _ _ _ _ rfl rfl h

/-- A trap of the team finds a handler, and nothing to drain. -/
theorem wit_handler : tmA.p1 = false ∧ (sys tmA).tvec 0 ≠ 0 ∧
    ∃ s0 tm0, (sys tmA).drain 0 0 drainFuel = some s0 ∧ s0.team? 0 0 = some tm0 :=
  ⟨rfl, by decide, _, _, rfl, rfl⟩

/-! Hypotheses of the statements can be met: lane words. -/

def fA : ABW := ⟨.v 2, .v 0, .v 1, false, false, false⟩
def fW : ABW := ⟨.v 46, .v 46, .s 6, false, true, true⟩

theorem wit_IntegerAlu : Ready (sys tmA) 0 0 tmA (.add fA) false .no [srcP fA.a fA.w, srcP fA.b fA.w, dstP fA.d fA.w] :=
  ready_of _ _ _ _ _ (by decide +kernel)
theorem wit_IntegerAlu_pair : Ready (sys tmA) 0 0 tmA (.sext fW) true .no [srcP fW.a fW.w, src1 fW.b, dstP fW.d fW.w] :=
  ready_of _ _ _ _ _ (by decide +kernel)

theorem wit_ImmediateForms : Ready (sys tmA) 0 0 tmA (.addImm ⟨.s 7, .v 0, 0x800, false, true⟩) true .no
    [src1 (.v 0), dstP (.s 7) false] := ready_of _ _ _ _ _ (by decide +kernel)
theorem wit_ImmediateForms_shift : Ready (sys tmA) 0 0 tmA (.sarImm ⟨.zero, .v 47, 31, true, false⟩) false .no
    [src1 (.v 47), dstP .zero false] := ready_of _ _ _ _ _ (by decide +kernel)
def tmAdv : Team := { tmA with advs := [.imm 0xFFFFF], advPc := 0xFFFC, words := 22 }
theorem wit_ImmediateForms_adverb : Ready (sys tmAdv) 0 0 tmAdv (.movi (.v 0) 0xFFF false false) false .no [dstP (.v 0) false] ∧
    Ready (sys tmAdv) 0 0 tmAdv (.lea (.v 0) 0 false true) true .no [dstP (.v 0) false] :=
  ⟨ready_of _ _ _ _ _ (by decide +kernel), ready_of _ _ _ _ _ (by decide +kernel)⟩
def fP : AB := ⟨.v 2, .v 0, .v 46, false, false⟩
def fB : AB := ⟨.v 2, .v 0, .v 1, false, false⟩
theorem wit_Multiply : Ready (sys tmA) 0 0 tmA (.mul fW) true .no [srcP fW.a true, srcP fW.b true, dstP fW.d true] ∧
    Ready (sys tmA) 0 0 tmA (.madw fB) false .no [src1 fB.a, src1 fB.b, srcP fB.d true, dstP fB.d true] ∧
    Ready (sys tmA) 0 0 tmA (.mad fB) false .no [src1 fB.a, src1 fB.b, src1 fB.d, dstP fB.d false] :=
  ⟨ready_of _ _ _ _ _ (by decide +kernel), ready_of _ _ _ _ _ (by decide +kernel), ready_of _ _ _ _ _ (by decide +kernel)⟩

/-- Every divisor is 0, and no bit of TRAPEN is set; then both are. -/
def tmDz : Team := { tmA with trapen := 3 }
theorem wit_Divides : Ready (sys tmA) 0 0 tmA (.div fA) false .no [srcP fA.a fA.w, srcP fA.b fA.w, dstP fA.d fA.w] ∧
    ∀ l ∈ tmA.active, divStatus tmA fA true false l &&& tmA.trapen = 0 :=
  ⟨ready_of _ _ _ _ _ (by decide +kernel), by decide +kernel⟩
theorem wit_Divides_dz : Ready (sys tmDz) 0 0 tmDz (.divu fA) false .no [srcP fA.a fA.w, srcP fA.b fA.w, dstP fA.d fA.w] ∧
    tmDz.trapen.getLsbD 0 = true ∧ (tmDz.active.filter fun l => (divStatus tmDz fA false false l).getLsbD 0) ≠ [] :=
  ⟨ready_of _ _ _ _ _ (by decide +kernel), by decide +kernel⟩
/-- The most negative number by -1 in lane 3 alone. -/
def tmOv : Team := { tmA with trapen := 2, v := [(3072, ⟨0x80000000, false⟩), (3073, ⟨0xFFFFFFFF, true⟩)] }
theorem wit_Divides_ov : Ready (sys tmOv) 0 0 tmOv (.rem fA) false .no [srcP fA.a fA.w, srcP fA.b fA.w, dstP fA.d fA.w] ∧
    ¬(tmOv.trapen.getLsbD 0 = true) ∧ tmOv.trapen.getLsbD 1 = true ∧
    (tmOv.active.filter fun l => (divStatus tmOv fA true true l).getLsbD 1) = [3] :=
  ⟨ready_of _ _ _ _ _ (by decide +kernel), by decide +kernel⟩
theorem wit_DivideTable : (0 : BitVec 32) = 0 ∧ BitVec.intMin 32 = 0x80000000#32 ∧ (0xFFFFFFFF#32 : BitVec 32) = -1 ∧
    ((1 : BitVec 32) ≠ 0 ∧ ¬((7 : BitVec 32) = BitVec.intMin 32 ∧ (1 : BitVec 32) = -1)) := by decide
theorem wit_BitOperations : Ready (sys tmA) 0 0 tmA (.clz ⟨.v 2, .v 0, false, true, false⟩) false .no [srcP (.v 0) true, dstP (.v 2) false] ∧
    Ready (sys tmA) 0 0 tmA (.bfi fB) false .no [src1 fB.a, src1 fB.b, src1 fB.d, dstP fB.d false] :=
  ⟨ready_of _ _ _ _ _ (by decide +kernel), ready_of _ _ _ _ _ (by decide +kernel)⟩
theorem wit_ComparesSelectsFlags : Ready (sys tmA) 0 0 tmA (.cmp 7 .geu (.v 0) (.s 0) true false) false .no [srcP (.v 0) true, srcP (.s 0) true] ∧
    Ready (sys tmA) 0 0 tmA (.cmpImm 0 7 (.v 0) 0x7FF true) true .no [src1 (.v 0)] ∧
    Ready (sys tmA) 0 0 tmA (.sel fA 7) false .no [srcP fA.a fA.w, srcP fA.b fA.w, dstP fA.d fA.w] ∧
    Ready (sys tmA) 0 0 tmA (.kand ⟨0, 1, 7, false⟩) false .no [] ∧ Ready (sys tmA) 0 0 tmA (.knot ⟨7, 7, true⟩) true .no [] :=
  ⟨ready_of _ _ _ _ _ (by decide +kernel), ready_of _ _ _ _ _ (by decide +kernel), ready_of _ _ _ _ _ (by decide +kernel),
    ready_of _ _ _ _ _ (by decide +kernel), ready_of _ _ _ _ _ (by decide +kernel)⟩
theorem wit_FloatWords : Ready (sys tmA) 0 0 tmA (.ffma fB) false .no [src1 fB.a, src1 fB.b, src1 fB.d, dstP fB.d false] ∧
    Ready (sys tmA) 0 0 tmA (.dfma fP) false .no [srcP fP.a true, srcP fP.b true, srcP fP.d true, dstP fP.d true] ∧
    Ready (sys tmA) 0 0 tmA (.fabs ⟨.v 2, .v 0, false, false⟩) false .no [src1 (.v 0), dstP (.v 2) false] ∧
    Ready (sys tmA) 0 0 tmA (.dcmp 7 .un (.v 0) .zero false) false .no [srcP (.v 0) true, srcP .zero true] :=
  ⟨ready_of _ _ _ _ _ (by decide +kernel), ready_of _ _ _ _ _ (by decide +kernel), ready_of _ _ _ _ _ (by decide +kernel),
    ready_of _ _ _ _ _ (by decide +kernel)⟩
theorem wit_ExactThenRounded : (1 : Nat) ≠ 0 ∧ (Num.Val.fin true 0 3 = .fin true 0 3) ∧
    Num.scaled false 1 0 (min 0 0) + Num.scaled true 1 0 (min 0 0) = 0 := by decide
theorem wit_PackedAndConversions : Ready (sys tmA) 0 0 tmA (.hfma2 fB) false .no [src1 fB.a, src1 fB.b, src1 fB.d, dstP fB.d false] ∧
    Ready (sys tmA) 0 0 tmA (.bmul2 fB) false .no [src1 fB.a, src1 fB.b, dstP fB.d false] ∧
    Ready (sys tmA) 0 0 tmA (.cvt ⟨.v 2, .v 0, false, false⟩ .s64f64 .ro) false .no [srcP (.v 0) true, dstP (.v 2) true] :=
  ⟨ready_of _ _ _ _ _ (by decide +kernel), ready_of _ _ _ _ _ (by decide +kernel), ready_of _ _ _ _ _ (by decide +kernel)⟩
theorem wit_DotAndExponentWords :
    Ready (sys tmA) 0 0 tmA (.dot4Sh ⟨.v 2, .v 0, .v 46, false, false⟩ 3) false .no [src1 (.v 0), src1 (.v 46), boundN (.v 46) 2, src1 (.v 2), dstP (.v 2) false] ∧
    Ready (sys tmA) 0 0 tmA (.dot4I8 fB) false .no [src1 fB.a, src1 fB.b, src1 fB.d, dstP fB.d false] ∧
    Ready (sys tmA) 0 0 tmA (.scalee fB) false .no [src1 fB.a, src1 fB.b, dstP fB.d false] :=
  ⟨ready_of _ _ _ _ _ (by decide +kernel), ready_of _ _ _ _ _ (by decide +kernel), ready_of _ _ _ _ _ (by decide +kernel)⟩
/-- Lane 0, whose scale DOT4.SH reads, awaits an atomic's result there. -/
def tmLk : Team := { tmA with atoms := [⟨7, 0, 0x10000, .lane 47, 1, [0], [], [], [], none, false⟩] }
theorem wit_DotAndExponentWords_lock :
    Ready (sys tmLk) 0 0 tmLk (.dot4Sh ⟨.v 2, .v 0, .v 46, false, false⟩ 3) false .no [src1 (.v 0), src1 (.v 46), boundN (.v 46) 2, src1 (.v 2), dstP (.v 2) false] ∧
    tmLk.crossLock (fun _ l => [(.v 47, 32 * (l / 32) + 8 * (l % 32 / 8))]) ≠ [] ∧
    tmA.crossLock (fun _ l => [(.v 47, 32 * (l / 32) + 8 * (l % 32 / 8))]) = [] ∧
    tmA.crossBad (fun _ l => [(.v 47, 32 * (l / 32) + 8 * (l % 32 / 8))]) = [] ∧
    tmA.crossLate (fun _ l => [(.v 47, 32 * (l / 32) + 8 * (l % 32 / 8))]) = none ∧
    tmLk.wdogDue = false ∧ tmLk.gathering = false ∧ ((sys tmLk).block? 0).map (·.seq.trap) = some none :=
  ⟨ready_of _ _ _ _ _ (by decide +kernel), by decide +kernel⟩
theorem wit_SpecialFunctions : Ready (sys tmA) 0 0 tmA (.tanh ⟨.v 2, .v 0, false, false⟩) false .no [src1 (.v 0), dstP (.v 2) false] ∧
    Num.fp32.decode 1 = .fin false 1 (-149) ∧ 2139095040 < (0x7F800001 : Nat) % 2 ^ 31 ∧ (0x7F800000 : Nat) % 2 ^ 31 = 2139095040 ∧
    holdsValue 0xC3150000 (-149) 0 = true ∧ holdsValue 0x42FE0000 127 0 = true ∧ holdsValue 1 1 (-149) = true ∧
    holdsValue 0x3F000000 (2 * 0 + 1) (-1) = true :=
  ⟨ready_of _ _ _ _ _ (by decide +kernel), by decide +kernel⟩
theorem wit_PicksSwapsPolls : Ready (sys tmA) 0 0 tmA (.lpickAt fB) false .yes [src1 fB.a, src1 fB.b, dstP fB.d false] ∧
    Ready (sys tmA) 0 0 tmA (.pollAll ⟨0, 7, false⟩) false .yes [] ∧
    Ready (sys tmA) 0 0 tmA (.pollCnt ⟨.v 2, 7, false, false⟩) false .yes [dstP (.v 2) false] :=
  ⟨ready_of _ _ _ _ _ (by decide +kernel), ready_of _ _ _ _ _ (by decide +kernel), ready_of _ _ _ _ _ (by decide +kernel)⟩
theorem wit_Reductions : (Ready (sys tmA) 0 0 tmA (.wred ⟨.v 2, .v 0, .fadd, false, false⟩) false .yes [src1 (.v 0), dstP (.v 2) false] ∧
      tmA.size ≤ 1024) ∧
    Ready (sys tmA) 0 0 tmA (.segred ⟨.v 2, .v 0, .minu, false, false⟩ 7) false .yes [src1 (.v 0), dstP (.v 2) false] ∧
    [0, 31].Nodup ∧ ([0, 31] : List Nat) ≠ [] ∧ ∀ l ∈ [0, 31], 0 ≤ l ∧ l < 0 + 2 ^ 5 :=
  ⟨⟨ready_of _ _ _ _ _ (by decide +kernel), by decide +kernel⟩, ready_of _ _ _ _ _ (by decide +kernel), by decide⟩

/-! Hypotheses met: issue, traps and the system instructions. -/

theorem nothingDue_of (tm : Team) (h : (!tm.wdogDue && !tm.gathering) = true) : NothingDue (sys tm) 0 tm := by
  simp only [Bool.and_eq_true, Bool.not_eq_true'] at h
  refine ⟨h.1, h.2, fun b hb => ?_⟩
  have : (sys tm).block? 0 = some (Block.initial 0 0 0 0 1 wordKernel none none) := rfl
  rw [this] at hb
  cases hb
  rfl

/-- A team that handles a precise trap of a word at 0x20000. -/
def fr0 : TrapFrame := ⟨.precise, .misaligned, 0x20000, 0x20004, 15, false, noWait, false, false, [], none, [], 0, []⟩
def tmH : Team := { tmA with p1 := true, stack := [.handler, .join 0x20010 0], frame := some fr0 }
/-- The same, of a trap that found nine failed lanes. -/
def tmX : Team := { tmH with xcount := 2, xsel := 1 }

theorem wit_IssueChecks :
    ¬((Instr.add ⟨.e 0, .v 0, .v 1, false, false, false⟩).legal = true ∧ (tmA.words < 23 ∨ false = true)) ∧
    ¬({ tmA with words := 23 }.words < 23 ∨ false = true) ∧
    (tmA.gatherFor .no = none ∧ { tmA with ix := 64 }.bound (dstP (.v 39) true) = false) ∧
    tmA.stale [srcP (.e 7) false] = some 0 ∧ tmA.bound (srcP (.e 7) false) = true := by decide +kernel
/-- Lane 0's v2 awaits an atomic; a window LDP of it at 0xFF00 has met an upset word; v0 of lane 1 fails its parity. -/
def tmLo : Team := { tmA with atoms := [⟨7, 0, 0x10000, .lane 2, 1, [0], [], [], [], none, false⟩] }
def tmLt : Team := { tmA with late := [⟨1, 1, .lane 2, 4, [(0, 0, 0x10)], [], [], false, 0xFF00, false, [(0, 0x80000010)]⟩] }
def tmUp : Team := { tmA with upV := [1024] }
theorem wit_IssueChecks_sources : tmLo.lockers [src1 (.v 2)] ≠ [] ∧ NothingDue (sys tmLo) 0 tmLo ∧
    (tmLt.lockers [src1 (.v 2)] = [] ∧ (tmLt.lateRead [src1 (.v 2)]).isSome = true) ∧
    (tmUp.lockers [src1 (.v 0)] = [] ∧ tmUp.lateRead [src1 (.v 0)] = none ∧ tmUp.upset [src1 (.v 0)] = [1] ∧
      tmUp.upset [srcOnce (.v 0)] = []) ∧
    ∀ tm ∈ [tmLo, tmLt, tmUp], tm.gatherFor .no = none ∧ tm.bound (src1 (.v 2)) = true ∧ tm.stale [src1 (.v 2)] = none :=
  ⟨by decide +kernel, nothingDue_of _ rfl, by decide +kernel⟩
theorem wit_IssueChecks_trap : Ready (sys tmA) 0 0 tmA (.trap 1023 true) true .no [] := ready_of _ _ _ _ _ (by decide +kernel)
theorem wit_TrapsThatKill : (sys tmH).team? 0 0 = some tmH ∧ tmH.status = .live ∧ tmH.p1 = true ∧ (sys tmH).trapDrain 0 0 tmH ≠ none ∧
    (State.reset.placeWord 0).tvec 0 = 0 ∧ (Instr.mov ⟨.e 1, .v 0, false, false, false⟩).legal = false ∧
    { tmH with ix := 64 }.gatherFor .no = none ∧ { tmH with ix := 64 }.bound (dstP (.v 39) true) = false ∧
    tmH.stale [srcP (.e 7) false] = some 0 := ⟨rfl, by decide +kernel⟩
theorem wit_TrapsThatKill_kill : Ready (sys tmH) 0 0 tmH (.kill true) true .no [] ∧ tmH.p1 = true ∧ tmH.frame = some fr0 ∧
    (sys tmH).trapDrain 0 0 tmH ≠ none ∧ Ready (sys tmA) 0 0 tmA (.skip false) false .no [] :=
  ⟨ready_of _ _ _ _ _ (by decide +kernel), rfl, rfl, by decide +kernel, ready_of _ _ _ _ _ (by decide +kernel)⟩
theorem wit_ReturnFromHandler : Ready (sys tmH) 0 0 tmH (.tret true) true .no [] ∧ tmH.p1 = true ∧ tmH.frame = some fr0 ∧
    fr0.seq = false ∧ fr0.wait.cause = .none ∧ tmH.faults = [] ∧ tmH.overflow = [] ∧ (sys tmH).replayingAny 0 0 = false ∧
    Ready (sys tmH) 0 0 tmH (.skip true) true .no [] :=
  ⟨ready_of _ _ _ _ _ (by decide +kernel), rfl, rfl, rfl, rfl, rfl, rfl, rfl, ready_of _ _ _ _ _ (by decide +kernel)⟩
/-- The handler of a window LDP's trap: TRET issues the LDP again. -/
def tmHl : Team := { tmH with frame := some { fr0 with kind := .late, redo := tmLt.late } }
theorem wit_ReturnFromHandler_redo : Ready (sys tmHl) 0 0 tmHl (.tret true) true .no [] ∧ tmLt.late.length = 1 :=
  ⟨ready_of _ _ _ _ _ (by decide +kernel), rfl⟩
theorem wit_SystemRegisterReads : Ready (sys tmA) 0 0 tmA (.sysr (.v 1) 15 false) false .no [dstN (.v 1) 1] ∧
    Ready (sys tmH) 0 0 tmH (.sysr (.v 1) 49 false) false .no [dstN (.v 1) 1] ∧ tmH.p1 = true ∧
    Ready (sys tmA) 0 0 tmA (.sysr (.v 1) 32 true) true .no [dstN (.v 1) 1] ∧ tmA.p1 = false :=
  ⟨ready_of _ _ _ _ _ (by decide +kernel), ready_of _ _ _ _ _ (by decide +kernel), rfl, ready_of _ _ _ _ _ (by decide +kernel), rfl⟩
theorem wit_FaultEntryWindow : Ready (sys tmX) 0 0 tmX (.sysr (.v 1) 39 false) false .no [dstN (.v 1) 1] ∧ tmX.p1 = true ∧
    tmX.xcount ≤ 8 ∧ (sys tmX).team? (sys tmX).cur.core (sys tmX).cur.team = some tmX :=
  ⟨ready_of _ _ _ _ _ (by decide +kernel), rfl, by decide, rfl⟩
theorem wit_SystemRegisterWrites : Ready (sys tmA) 0 0 tmA (.sysw (.v 1) 12 false) false .no [srcOnce (.v 1)] ∧
    Ready (sys tmH) 0 0 tmH (.sysw (.v 1) 45 true) true .no [srcOnce (.v 1)] ∧ tmH.p1 = true ∧
    (PMap.get? (sys tmH).ctxs ((sys tmH).ctxOf 0)).isSome = true ∧
    Ready (sys tmA) 0 0 tmA (.sysw (.v 1) 48 true) true .no [srcOnce (.v 1)] ∧ tmA.p1 = false ∧
    Ready (sys tmH) 0 0 tmH (.sysw (.v 1) 49 true) true .no [srcOnce (.v 1)] :=
  ⟨ready_of _ _ _ _ _ (by decide +kernel), ready_of _ _ _ _ _ (by decide +kernel), rfl, rfl, ready_of _ _ _ _ _ (by decide +kernel), rfl,
    ready_of _ _ _ _ _ (by decide +kernel)⟩
theorem wit_Invalidation : Ready (sys tmH) 0 0 tmH (.sysw .zero 41 true) true .no [srcOnce .zero] ∧ tmH.p1 = true ∧
    NothingDue (sys tmH) 0 tmH ∧ tmH.second = false ∧
    (let v : DWord := (tmH.read false tmH.first .zero).val.setWidth 32 ++ tmH.xinvlo
     v.toNat / 2 ^ 56 = 0 ∧ v.toNat / 4 % 2 ^ 14 = 0 ∧ v.toNat % 4 < 2) ∧
    (let v : DWord := (0 : Word) ++ (2 : Word)
     v.toNat / 2 ^ 56 ≠ 0 ∨ v.toNat / 4 % 2 ^ 14 ≠ 0 ∨ 2 ≤ v.toNat % 4) :=
  ⟨ready_of _ _ _ _ _ (by decide +kernel), rfl, nothingDue_of _ rfl, rfl, by decide +kernel, by decide⟩
/-- The word reached again, its invalidation over. -/
theorem wit_Invalidation_second : Ready (sys { tmH with second := true }) 0 0 { tmH with second := true } (.sysw .zero 41 true) true .no [srcOnce .zero] ∧
    (∀ x ∈ (sys { tmH with second := true }).xinvs, ¬(x.core = 0 ∧ x.team = 0)) :=
  ⟨ready_of _ _ _ _ _ (by decide +kernel), by decide +kernel⟩
/-- A team whose invalidation of one page has just begun, and of its whole context. -/
def stXinv (o : Option Nat) (r : Bool) : State := { sys tmH with xinvs := [⟨0, 0, 0, o, r, 0⟩] }
theorem wit_Invalidation_events : (stXinv (some 1) false).storesHome 0 0 = true ∧
    ((stXinv (some 1) false).xinvs.find? fun y => !y.removed && y.vpn == some (1#40).toNat) = some ⟨0, 0, 0, some 1, false, 0⟩ ∧
    ((stXinv none false).xinvs.find? fun y => !y.removed && y.vpn.isNone) = some ⟨0, 0, 0, none, false, 0⟩ ∧
    ((stXinv none true).xinvs.find? fun x => x.core == 0 && x.team == 0) = some ⟨0, 0, 0, none, true, 0⟩ ∧
    (stXinv none true).xinvBusy ⟨0, 0, 0, none, true, 0⟩ = false := by decide +kernel
/-- Its team waits, with a store still on its way home. -/
def tmXw : Team := { tmH with status := .parked, wait := ⟨.xinv, 0, 0⟩ }
def stXord : State :=
  (stXinv none false).setCore 0 { (sys tmA).core 0 with order := [⟨2048, [(0, 1)], 0, 0, 0, 0x20000, [0x20000], 0, 0⟩] }
def stXout : State := { stXord with xinvs := [⟨0, 0, 0, none, true, 0⟩] }
theorem wit_Invalidation_waits : stXout.xinvBusy ⟨0, 0, 0, none, true, 0⟩ = true ∧
    (stXout.xinvs.find? fun x => x.core == 0 && x.team == 0) = some ⟨0, 0, 0, none, true, 0⟩ ∧ stXord.storesHome 0 0 = false ∧
    (stXord.xinvs.find? fun y => !y.removed && y.vpn.isNone) = some ⟨0, 0, 0, none, false, 0⟩ ∧
    ({ sys tmXw with xinvs := [⟨0, 0, 0, none, true, 0⟩] } : State).xinvBusy ⟨0, 0, 0, none, true, 0⟩ = false ∧
    (sys tmXw).team? 0 0 = some tmXw ∧ tmXw.status = .parked ∧ tmXw.wait = ⟨.xinv, 0, 0⟩ := by decide +kernel

/-! Hypotheses met: control. -/

/-- 31 entries fill the divergence stack but for one, 32 fill it. -/
def tmFull (n : Nat) : Team := { tmA with stack := List.replicate n (.join 0x30000 0) }
/-- Flag 2 is set in lane 1 alone. -/
def tmK : Team := { tmA with k := [(8 + 2, true)] }
def tmK32 : Team := { tmK with stack := List.replicate 32 (.join 0x30000 0) }
/-- The team stands at its topmost join, where lane 3 has arrived. -/
def tmJ : Team := { tmA with act := 7, stack := [.join 0x10000 8, .call 0x20000 0] }
def tmCall : Team := { tmA with stack := [.call 0x20000 1] }

theorem wit_BranchCallAndJoin : Ready (sys tmA) 0 0 tmA (.bra (-1) true) true .no [] ∧ NoPop true tmA ∧
    Ready (sys (tmFull 31)) 0 0 (tmFull 31) (.call 1 false) true .no [] ∧ (tmFull 31).entries.length < Config.stackEntries ∧
    Ready (sys (tmFull 32)) 0 0 (tmFull 32) (.call 1 false) true .no [] ∧ Config.stackEntries ≤ (tmFull 32).entries.length ∧
    Ready (sys (tmFull 31)) 0 0 (tmFull 31) (.rcv 1 true true) true .no [] ∧ NoPop true (tmFull 31) ∧
    Ready (sys (tmFull 32)) 0 0 (tmFull 32) (.rcv 1 false false) false .no [] :=
  ⟨ready_of _ _ _ _ _ (by decide +kernel), .inr (by decide), ready_of _ _ _ _ _ (by decide +kernel), by decide +kernel,
    ready_of _ _ _ _ _ (by decide +kernel), by decide +kernel, ready_of _ _ _ _ _ (by decide +kernel), .inr (by decide +kernel),
    ready_of _ _ _ _ _ (by decide +kernel)⟩
theorem wit_PathsSplitAndJoin : Ready (sys tmK) 0 0 tmK (.brk ⟨4, 2, false⟩) true .no [] ∧ NoPop false tmK ∧
    flagged tmK 2 = 2 ∧ tmK.act &&& ~~~flagged tmK 2 ≠ 0 ∧ tmK.entries.length < Config.stackEntries ∧
    flagged tmK 3 = 0 ∧ Ready (sys tmK32) 0 0 tmK32 (.brk ⟨4, 2, false⟩) true .no [] ∧ flagged tmK32 2 ≠ 0 ∧
    Config.stackEntries ≤ tmK32.entries.length :=
  ⟨ready_of _ _ _ _ _ (by decide +kernel), .inl rfl, by decide +kernel, by decide +kernel, by decide +kernel, by decide +kernel,
    ready_of _ _ _ _ _ (by decide +kernel), by decide +kernel, by decide +kernel⟩
theorem wit_PathsSplitAndJoin_all : tmCall.act &&& ~~~flagged { tmCall with act := 2, k := [(10, true)] } 2 = 13 ∧
    (2 : LaneMask) &&& ~~~flagged { tmCall with act := 2, k := [(10, true)] } 2 = 0 := by decide +kernel
theorem wit_PathsSplitAndJoin_arrive : (sys tmJ).team? 0 0 = some tmJ ∧ tmJ.status = .live ∧ tmJ.gathering = false ∧
    topJoin tmJ.stack = some tmJ.pc ∧ resumeStack (joinArrive tmJ.act tmJ.stack) = (.run 0x10000 15, [.call 0x20000 0]) :=
  ⟨rfl, by decide +kernel⟩
theorem wit_Return : Ready (sys tmCall) 0 0 tmCall .ret true .no [] ∧ hasCall tmCall.stack = true ∧ tmCall.gathering = false ∧
    Ready (sys tmA) 0 0 tmA .ret true .no [] ∧ hasCall tmA.stack = false :=
  ⟨ready_of _ _ _ _ _ (by decide +kernel), rfl, rfl, ready_of _ _ _ _ _ (by decide +kernel), rfl⟩
/-- Every lane's target is 0x10010, where an LPAD with tag 7 stands, or is 0x10007. -/
def tmBrx (n : Nat) : Team :=
  { tmA with u := [(0, ⟨0x10010, 0⟩), (1, ⟨0x10007, 0⟩)], stack := List.replicate n (.join 0x30000 0) }
def sysBrx (n : Nat) : State :=
  let w := (encode (.lpad 7 false)).headD 0
  { sys (tmBrx n) with mem := (List.range 4).map fun i => (0x10010 + i, BitVec.ofNat 8 (w.toNat / 2 ^ (8 * i))) }
theorem wit_IndirectTransfers : Ready (sysBrx 31) 0 0 (tmBrx 31) (.brx ⟨.s 0, 7⟩) true .no [src1 (.s 0)] ∧
    ((tmBrx 31).active.map (laneTarget (tmBrx 31) (.s 0))).eraseDups = [0x10010] ∧
    (tmBrx 31).active.all ((sysBrx 31).lands 0 (tmBrx 31) ⟨.s 0, 7⟩) = true ∧
    (0 + 1 + (tmBrx 31).entries.length ≤ Config.stackEntries) ∧ ¬(0 + 1 + (tmBrx 32).entries.length ≤ Config.stackEntries) ∧
    Ready (sysBrx 32) 0 0 (tmBrx 32) (.callx ⟨.s 0, 7⟩) true .no [src1 (.s 0)] ∧
    ((tmBrx 31).active.filter fun l => !(sysBrx 31).lands 0 (tmBrx 31) ⟨.s 1, 7⟩ l) = [0, 1, 2, 3] ∧
    ((tmBrx 31).active.filter fun l => !(sysBrx 31).lands 0 (tmBrx 31) ⟨.s 0, 8⟩ l) = [0, 1, 2, 3] :=
  ⟨ready_in _ _ _ _ _ _ rfl rfl (by decide +kernel), by decide +kernel, by decide +kernel, by decide +kernel, by decide +kernel,
    ready_in _ _ _ _ _ _ rfl rfl (by decide +kernel), by decide +kernel, by decide +kernel⟩
theorem wit_WordsOnOneRegister : Ready (sys tmA) 0 0 tmA (.setix (.v 1) true) true .no [srcOnce (.v 1)] ∧
    Ready (sys tmA) 0 0 tmA (.setsixImm 63 false) false .no [] ∧ Ready (sys tmA) 0 0 tmA (.lpad 255 false) false .no [] ∧
    Ready (sys tmA) 0 0 tmA (.heart (.s 0) false) false .no [srcOnce (.s 0)] ∧ Ready (sys tmA) 0 0 tmA (.yield false) false .no [] :=
  ⟨ready_of _ _ _ _ _ (by decide +kernel), ready_of _ _ _ _ _ (by decide +kernel), ready_of _ _ _ _ _ (by decide +kernel),
    ready_of _ _ _ _ _ (by decide +kernel), ready_of _ _ _ _ _ (by decide +kernel)⟩
/-- Another path has lanes; and a load has not landed. -/
def tmEx : Team := { tmA with act := 1, stack := [.path 0x20000 14 .pending] }
def tmLd : Team := { tmA with out := [⟨7, 0, 0x10000, 0, 1, .lane 5, 4, false, none, .device, false, false, false, true, 0, [⟨0, 0x20000, some 0x20000, false, true, false, false, none⟩], []⟩], seq := 1 }
theorem wit_ExitEndsPathsAndTeams : Ready (sys tmEx) 0 0 tmEx .exit true .no [] ∧ tmEx.gathering = false ∧ frameOf tmEx.stack = none ∧
    resumeStack tmEx.stack = (.run 0x20000 14, []) ∧
    Ready (sys tmA) 0 0 tmA .exit true .no [] ∧ (resumeStack tmA.stack).1 = .empty ∧ (sys tmA).exitReady 0 0 tmA = true ∧
    tmA.failed = [] ∧ tmA.bad = [] ∧ tmA.late = [] ∧ Ready (sys tmLd) 0 0 tmLd .exit true .no [] ∧ (sys tmLd).exitReady 0 0 tmLd = false ∧
    NothingDue (sys tmLd) 0 tmLd :=
  ⟨ready_of _ _ _ _ _ (by decide +kernel), rfl, rfl, rfl, ready_of _ _ _ _ _ (by decide +kernel), rfl, by decide +kernel, rfl, rfl, rfl,
    ready_of _ _ _ _ _ (by decide +kernel), by decide +kernel, nothingDue_of _ rfl⟩
/-- A refill team in its body, which stands at 0x1000C as the retire section begins at 0x10010. -/
def fr1 : RefillFrame := ⟨0, .body, 0, 0, [], [], [], 0, 0⟩
def tmRf : Team := { tmK with pc := 0x1000C, stack := [.refill fr1] }
def blkRf : Block := 
  Block.initial 0 0 0 0 1 { wordKernel with rf := true, body := 0x1000C, retire := 0x10010, rend := 0x10020 } none none
def sysRf (tm : Team) : State := { sys tm with blocks := [(0, blkRf)] }
theorem wit_Refill : (sysRf tmRf).block? 0 = some blkRf ∧ NoPop false tmRf ∧
    Ready (sysRf tmRf) 0 0 tmRf (.refill ⟨-3, 2, false⟩) true .yes [] ∧ blkRf.rec_.rf = true ∧ blkRf.rec_.ord = false ∧
    blkRf.rec_.body.toNat ≤ tmRf.pc.toNat ∧ tmRf.pc.toNat + 4 ≤ blkRf.rec_.retire.toNat ∧ frameOf tmRf.stack = some fr1 ∧
    fr1.phase = .body ∧ fr1.runs = [] ∧ fr1.retired = [] ∧ flagged tmRf 2 ≠ 0 ∧ flagged tmRf 3 = 0 ∧ tmRf.size ≤ 1024 ∧
    tmRf.phaseLanes &&& ~~~tmRf.act = 0 ∧
    ((sys tmA).block? 0 = some (Block.initial 0 0 0 0 1 wordKernel none none) ∧ wordKernel.rf = false) :=
  ⟨rfl, .inl rfl, ready_in _ _ _ _ _ _ rfl rfl (by decide +kernel), rfl, rfl, by decide, by decide, rfl, rfl, rfl, rfl, by decide +kernel,
    by decide +kernel, by decide, by decide +kernel, rfl, rfl⟩
/-- Lanes 1 and 2 follow on from ticket 1 while lane 3 goes on; lane 4 stays held. -/
theorem wit_Refill_ordered : OrderedRuns (fun l => l) [3] 9 1 [1, 2, 4] [[1, 2]] [4] :=
  .run 1 3 [1, 2, 4] [1, 2] [] [4] ⟨by decide, by decide, by decide, by decide, by decide⟩ ⟨by decide, by decide⟩ (.done 3 [4] (by decide))
/-- An ordered kernel whose lane 2 has retired, with iterations left to draw. -/
def tmRo : Team := { tmRf with stack := [.refill { fr1 with retired := [2] }], rangeEnd := 1 }
def sysRo : State := { sys tmRo with blocks := [(0, { blkRf with rec_ := { blkRf.rec_ with ord := true } })] }
theorem wit_Refill_draw : Ready sysRo 0 0 tmRo (.refill ⟨4, 3, false⟩) true .yes [] ∧ NoPop false tmRo ∧
    frameOf tmRo.stack = some { fr1 with retired := [2] } ∧ tmRo.phaseLanes &&& ~~~tmRo.act = 0 ∧
    tmRo.lanesOf (maskOf [2]) = [2] ∧ tmRo.rangeNext.toNat + 1 ≤ tmRo.rangeEnd.toNat ∧ tmRo.lanesOf (0 ||| flagged tmRo 3) = [] :=
  ⟨ready_in _ _ _ _ _ _ rfl rfl (by decide +kernel), .inl rfl, rfl, by decide +kernel⟩

/-! Hypotheses met: barriers, adverbs, loads, scratchpad words and waits. -/

/-- A block of two teams at which n teams have arrived, with barrier 1 for both, barrier 2 of a grid and barrier 3 for itself alone. -/
def blkB (n : Nat) : Block :=
  { Block.initial 0 0 0 0 2 wordKernel none none with
    bars := [(1, ⟨.block, 2, n, 0⟩), (2, ⟨.grid, 4, 0, 0⟩), (3, ⟨.block, 2, n, 0⟩)] }
def sysB (n : Nat) (tm : Team) : State := { (sys tm).setTeam 0 1 tmA with blocks := [(0, blkB n)] }
/-- Arrived at barriers 1 and 3; and reached again by BAR.SYNC. -/
def tmArr : Team := { tmA with pend := [(1, 0), (3, 0)] }
def tmSync : Team := { tmArr with second := true }
theorem nothingDue_B (n : Nat) (tm : Team) (h : (!tm.wdogDue && !tm.gathering) = true) : NothingDue (sysB n tm) 0 tm := by
  simp only [Bool.and_eq_true, Bool.not_eq_true'] at h
  refine ⟨h.1, h.2, fun b hb => ?_⟩
  have : (sysB n tm).block? 0 = some (blkB n) := rfl
  rw [this] at hb
  cases hb
  rfl

theorem wit_BarrierWords : (sysB 0 tmA).block? 0 = some (blkB 0) ∧ Ready (sysB 0 tmA) 0 0 tmA (.barArr 0 false) false .barrier [] ∧
    PMap.get? (blkB 0).bars 0 = none ∧ Ready (sysB 0 tmA) 0 0 tmA (.barArr 2 false) false .barrier [] ∧
    PMap.get? (blkB 0).bars 2 = some ⟨.grid, 4, 0, 0⟩ ∧ ¬(tmA.p1 = false ∧ tmA.inRun = true) ∧ tmA.stoppedAtBarrier = 0 ∧
    (sysB 0 tmA).pendOpen 0 tmA 2 = false ∧ tmA.sq.length < Config.storeQueue ∧ (sysB 0 tmA).teamRemoteQuiet 0 0 tmA = true ∧
    tmA.failed = [] :=
  ⟨rfl, ready_in _ _ _ _ _ _ rfl rfl (by decide +kernel), rfl, ready_in _ _ _ _ _ _ rfl rfl (by decide +kernel), rfl,
    by decide +kernel, by decide +kernel, by decide +kernel, by decide, by decide +kernel, rfl⟩
theorem wit_BarrierWords_wait : Ready (sysB 1 tmArr) 0 0 tmArr (.barWait 1) true .barrier [] ∧ PMap.get? tmArr.pend 1 ≠ none ∧
    (sysB 1 tmArr).pendOpen 0 tmArr 1 = true ∧ (sysB 1 tmArr).canComplete 0 1 = true ∧ NothingDue (sysB 1 tmArr) 0 tmArr ∧
    Ready (sysB 1 tmSync) 0 0 tmSync (.barSync 1 false) false .barrier [] ∧ tmSync.second = true ∧
    Ready (sysB 0 tmA) 0 0 tmA (.barWait 1) true .barrier [] ∧ PMap.get? tmA.pend 1 = none ∧
    Ready (sysB 0 tmA) 0 0 tmA (.barSync 1 false) false .barrier [] ∧ tmA.second = false ∧ (sysB 0 tmA).canComplete 0 1 = true :=
  ⟨ready_in _ _ _ _ _ _ rfl rfl (by decide +kernel), by decide, by decide +kernel, by decide +kernel, nothingDue_B _ _ rfl,
    ready_in _ _ _ _ _ _ rfl rfl (by decide +kernel), rfl, ready_in _ _ _ _ _ _ rfl rfl (by decide +kernel), rfl,
    ready_in _ _ _ _ _ _ rfl rfl (by decide +kernel), rfl, by decide +kernel⟩
/-- The other team has ended, so that barrier 1 cannot complete. -/
theorem wit_BarrierWords_mismatch :
    ((sysB 1 tmArr).setTeam 0 1 { tmA with status := .exited }).canComplete 0 1 = false ∧
    ((sysB 1 tmArr).setTeam 0 1 { tmA with status := .exited }).pendOpen 0 tmArr 1 = true := by decide +kernel

/-- The words after an adverb at 0x10000. -/
def sysWords (tm : Team) (ws : List Instr) : State :=
  { sys tm with mem := ((List.range ws.length).zip (ws.map fun i => (encode i).headD 0)).flatMap fun p =>
      (List.range 4).filterMap fun i =>
        let b : Byte := BitVec.ofNat 8 (p.2.toNat / 2 ^ (8 * i))
        if b = 0 then none else some (0x10004 + 4 * p.1 + i, b) }
def tmTag : Team := { tmA with advs := [.cache .stream], advPc := 0xFFFC, words := 1 }
theorem wit_AdverbWords :
    (let s := sysWords tmA [.movi (.v 0) 1 false false]
     adverbOf (.advImm 5) = some (.imm 5) ∧ s.team? 0 0 = some tmA ∧ tmA.words < 23 ∧
      ∃ w, s.lookAt 0 (tmA.pc + 4) tmA.p1 = some w ∧ ¬fOp w.toNat = 0x3F ∧ (Adverb.imm 5).modifies w.toNat = true ∧
        (Adverb.rnd .rz).modifies w.toNat = false) ∧
    (let s := sysWords tmA [.advScope .die .none, .ldW ⟨.v 5, .v 6, 2, 3, false⟩]
     ∃ w v j b, s.lookAt 0 (tmA.pc + 4) tmA.p1 = some w ∧ fOp w.toNat = 0x3F ∧ decode w = .ok j ∧ adverbOf j = some b ∧
      b.kind ≠ (Adverb.cache .stream).kind ∧ s.lookAt 0 (tmA.pc + 8) tmA.p1 = some v ∧ ¬fOp v.toNat = 0x3F ∧
      (Adverb.cache .stream).modifies v.toNat = true ∧ b.modifies v.toNat = true) ∧
    (tmTag.advs = [.cache .stream] ∧ (Adverb.cache .stream).kind ≠ (Adverb.tag 3).kind) :=
  ⟨⟨rfl, rfl, by decide, (encode (.movi (.v 0) 1 false false)).headD 0, by decide +kernel, by decide +kernel⟩,
    ⟨(encode (.advScope .die .none)).headD 0, (encode (.ldW ⟨.v 5, .v 6, 2, 3, false⟩)).headD 0, .advScope .die .none,
      .scope .die .none, by decide +kernel, by decide +kernel, rfl, rfl, by decide +kernel, by decide +kernel, by decide +kernel,
      by decide +kernel⟩, rfl, by decide +kernel⟩

/-- Lane addresses in v6: 0x20000 and up in words, one of them in lane 3 at 2^56; in v8 1 is added to lane 1's. -/
def tmM : Team :=
  { tmA with
    v := [(6, ⟨0x20000, false⟩), (7, ⟨0, false⟩), (8, ⟨0x20000, false⟩), (1030, ⟨0x20010, false⟩), (1032, ⟨0x20011, false⟩), (2054, ⟨0x20020, false⟩),
      (2056, ⟨0x20020, false⟩), (3078, ⟨0x20030, false⟩), (3080, ⟨0x20030, false⟩)] }
def tmFar : Team := { tmM with addrhi := 0x1000000 }
theorem ok_of {α β : Type} {x : Except α β} {y : β} (h : x.toOption = some y) : x = .ok y := by
  cases x with
  | error _ => cases h
  | ok _ => exact congrArg _ (Option.some.inj h)

theorem wit_LoadsIssue : Ready (sys tmM) 0 0 tmM (.ldcQ ⟨.v 12, .v 6, 15, 255, false⟩) false .no [src1 (.v 6), dstN (.v 12) 4] ∧
    tmM.fenced = false ∧ (∀ l ∈ tmM.active, laneAddress tmM (.v 6) (255 * 16) l % 16 = 0 ∧ laneAddress tmM (.v 6) (255 * 16) l < 2 ^ 56) ∧
    (∀ p ∈ tmM.out, p.id ≤ (sys tmM).fresh) ∧
    (∀ l ∈ tmM.parts, laneAddress tmM (.v 6) 0 l % 16 = 0 ∧ laneAddress tmM (.v 6) 0 l < 2 ^ 56 ∧
      ∀ e, (sys tmM).tlbHit 0 ((sys tmM).ctxOf 0) (laneAddress tmM (.v 6) 0 l) = some e →
        ∃ pa, (sys tmM).leafAccess e (laneAddress tmM (.v 6) 0 l) .read tmM.p1 = .ok pa) := by
  refine ⟨ready_of _ _ _ _ _ (by decide +kernel), rfl, by decide +kernel, by decide, fun l hl => ?_⟩
  have hp : tmM.parts = [0, 1, 2, 3] := by decide +kernel
  have ht : ∀ l ∈ [0, 1, 2, 3], (sys tmM).tlbHit 0 ((sys tmM).ctxOf 0) (laneAddress tmM (.v 6) 0 l) = some ⟨0, 0, 0, 2, 1, true, true, true⟩ ∧
      (laneAddress tmM (.v 6) 0 l % 16 = 0 ∧ laneAddress tmM (.v 6) 0 l < 2 ^ 56) ∧ ((sys tmM).leafAccess ⟨0, 0, 0, 2, 1, true, true, true⟩ (laneAddress tmM (.v 6) 0 l) .read tmM.p1).toOption =
        some (laneAddress tmM (.v 6) 0 l) := by decide +kernel
  obtain ⟨h1, h2, h3⟩ := ht l (hp ▸ hl)
  exact ⟨h2.1, h2.2, fun e he => ⟨_, (Option.some.inj (h1.symm.trans he)) ▸ ok_of h3⟩⟩
theorem wit_LoadsIssue_traps : (tmM.active.filter fun l => laneAddress tmM (.v 8) 0 l % 2 != 0) = [1] ∧
    (tmFar.active.filter fun l => decide (2 ^ 56 ≤ laneAddress tmFar (.v 6) 0 l)) = [0, 1, 2, 3] ∧
    Ready (sys tmFar) 0 0 tmFar (.gathW ⟨.v 12, .v 6, .v 7, 0, true⟩) true .no [src1 (.v 6), src1 (.v 7), dstN (.v 12) 1] :=
  ⟨by decide +kernel, by decide +kernel, ready_of _ _ _ _ _ (by decide +kernel)⟩

/-- The one page is not for P0. -/
def sysNoU : State := (sys tmM).setCore 0 { (sys tmM).core 0 with tlb := [⟨0, 0, 0, 2, 1, true, true, false⟩] }
theorem wit_LoadsIssue_fails : Ready sysNoU 0 0 tmM (.ldcQ ⟨.v 12, .v 6, 15, 255, false⟩) false .no [src1 (.v 6), dstN (.v 12) 4] ∧
    (∀ l ∈ tmM.active, (sysNoU.tlbHit 0 (sysNoU.ctxOf 0) (laneAddress tmM (.v 6) (255 * 16) l)) = some ⟨0, 0, 0, 2, 1, true, true, false⟩) ∧
    (∀ l ∈ tmM.active, (sysNoU.leafAccess ⟨0, 0, 0, 2, 1, true, true, false⟩ (laneAddress tmM (.v 6) (255 * 16) l) .read tmM.p1).toOption = none) ∧
    tmM.dest (.v 12) = .lane 12 ∧ 12 + 4 ≤ 1024 :=
  ⟨ready_in _ _ _ _ _ _ rfl rfl (by decide +kernel), by decide +kernel⟩

/-- Lane 0's word of 0x20000 is outstanding. -/
def ps0 : OutPass := ⟨7, 0, 0x10000, 0, 1, .lane 5, 4, false, none, .device, false, false, false, true, 0,
  [⟨0, 0x20000, some 0x20000, false, true, false, false, none⟩], []⟩
theorem wit_LoadReply : tmLd.out.find? (fun q => q.id == 7) = some ps0 ∧
    ps0.lanes.find? (fun y => y.lane == 0) = some ⟨0, 0x20000, some 0x20000, false, true, false, false, none⟩ ∧
    tmLd.mayLand ps0 ⟨0, 0x20000, some 0x20000, false, true, false, false, none⟩ = true ∧
    (sys tmLd).route 0x20000 = .local_ 0x20000 ∧ (sys tmLd).poisoned (0x20000 / 64) = false ∧ tmLd.sq = [] ∧
    ((sys tmLd).core 0).order = [] ∧ PMap.has ((sys tmLd).core 0).l1 (0x20000 / 64) = false ∧ tmLd.status = .live ∧
    (sys tmLd).l2Has (0x20000 / 64) = false ∧ ({ sys tmLd with l2Whole := [0x800] } : State).l2Has (0x20000 / 64) = true ∧
    (ps0.lanes.map (·.lane)).Nodup ∧ (∀ d, ps0.dest = .lane d → d + 1 ≤ 1024) :=
  ⟨by decide +kernel, by decide +kernel, by decide +kernel, by decide +kernel, by decide +kernel, rfl, rfl, by decide +kernel, rfl, by decide +kernel, by decide +kernel,
    by decide, fun d h => by cases h; decide⟩

def fPad : PadF := ⟨.v 12, .v 6, .w, 0, false⟩
/-- Scratchpad addresses in v6 of lanes 0 to 3: the last word is the last of the block's 24 banks. -/
def tmPad (last : Word) : Team :=
  { tmA with v := [(6, ⟨0, false⟩), (1030, ⟨4, false⟩), (2054, ⟨8, false⟩), (3078, ⟨last, false⟩)] }
def padEnd : Word := BitVec.ofNat 32 (Block.initial 0 0 0 0 1 wordKernel none none).spBytes
def sysAbs : State := { sys (tmPad (padEnd - 4)) with blocks := [(0, { Block.initial 0 0 0 0 1 wordKernel none none with absent := [0] })] }
theorem wit_ScratchpadWords : (let tm := tmPad (padEnd - 4)
    let b := Block.initial 0 0 0 0 1 wordKernel none none
    (sys tm).block? 0 = some b ∧ tm.fenced = false ∧ tm.pad = none ∧ tm.warps = [0] ∧
      Ready (sys tm) 0 0 tm (.ldp fPad) false .no [src1 (.v 6), dstN (.v 12) 1] ∧
      Ready (sys tm) 0 0 tm (.stp fPad) false .no [src1 (.v 6), srcN (.v 12) 1] ∧
      (∀ l ∈ tm.active, padAddress tm (.v 6) 0 l % 4 = 0 ∧ padAddress tm (.v 6) 0 l + 4 ≤ b.spBytes) ∧
      (∀ l ∈ tm.parts, padAddress tm (.v 6) 0 l < b.spBytes ∧ padAddress tm (.v 6) 0 l / 128 ∉ b.absent) ∧ b.upSp = [] ∧
      Ready (sys tm) 0 0 tm (.pres 7 (.v 6) false) false .no [src1 (.v 6)] ∧ tm.faults = [] ∧ tm.overflow = []) :=
  ⟨rfl, rfl, rfl, by decide +kernel, ready_of _ _ _ _ _ (by decide +kernel), ready_of _ _ _ _ _ (by decide +kernel), by decide +kernel,
    by decide +kernel, rfl, ready_of _ _ _ _ _ (by decide +kernel), rfl, rfl⟩
theorem wit_ScratchpadWords_stops : (let tm := tmPad padEnd
    (tm.active.filter fun l => decide ((Block.initial 0 0 0 0 1 wordKernel none none).spBytes ≤ padAddress tm (.v 6) 0 l)) = [3] ∧
      padAddress tm (.v 6) 0 3 < 2 ^ 31) ∧
    Ready sysAbs 0 0 (tmPad (padEnd - 4)) (.stp fPad) false .no [src1 (.v 6), srcN (.v 12) 1] ∧
    (∃ b, sysAbs.block? 0 = some b ∧ padAddress (tmPad (padEnd - 4)) (.v 6) 0 0 / 128 ∈ b.absent ∧ b.upSp = [] ∧ b.seq.trap = none) ∧
    (tmPad (padEnd - 4)).gathering = false ∧ (tmPad (padEnd - 4)).wdogDue = false :=
  ⟨by decide +kernel, ready_in _ _ _ _ _ _ rfl rfl (by decide +kernel), ⟨_, rfl, by decide +kernel, rfl, rfl⟩, rfl, rfl⟩

/-- A lane of an outstanding pass failed: its entry counts to counter 1. -/
def fe0 : FaultEntry := ⟨.pass 0 0 (.lane 5) 4 false none .device false false 0, 7, false, 0x10000, 1, [⟨0, 0x20000, true, false, .pageFault, 0⟩]⟩
def tmFe : Team := { tmA with faults := [fe0], ac := [(1, 0xFFFF)] }
theorem wit_CountersAndWaits : Ready (sys tmFe) 0 0 tmFe (.wait 2 0) true .no [] ∧ 0 ≤ tmFe.acv 2 ∧
    (tmFe.faults.filter fun e => e.ac == 2) = [] ∧
    Ready (sys tmFe) 0 0 tmFe (.wait 1 0xFFF) true .no [] ∧ 0xFFF ≤ tmFe.acv 1 ∧
    (tmFe.faults.filter fun e => e.ac == 1) = [fe0] ∧
    Ready (sys tmA) 0 0 tmA (.wait 0 1) true .no [] ∧ tmA.acv 0 < 1 ∧ NothingDue (sys tmA) 0 tmA ∧
    Ready (sys tmA) 0 0 tmA (.acnt 15 0xFFF true) true .no [] ∧
    Ready (sys tmA) 0 0 tmA .waitall true .no [] ∧ (sys tmA).allDone 0 0 tmA = true ∧ tmA.bad = [] ∧
    (sys tmFe).allDone 0 0 tmFe = true ∧ tmFe.faults = [fe0] ∧
    (sys tmLd).allDone 0 0 tmLd = false ∧ NothingDue (sys tmLd) 0 tmLd :=
  ⟨ready_of _ _ _ _ _ (by decide +kernel), by decide, rfl, ready_of _ _ _ _ _ (by decide +kernel), by decide +kernel, rfl,
    ready_of _ _ _ _ _ (by decide +kernel), by decide, nothingDue_of _ rfl, ready_of _ _ _ _ _ (by decide +kernel),
    ready_of _ _ _ _ _ (by decide +kernel), by decide +kernel, rfl, by decide +kernel, rfl, by decide +kernel, nothingDue_of _ rfl⟩

/-! Hypotheses met: stores, atomics, FENCE and COLL. -/

/-- The leaf of the small machine maps its first GiB to itself. -/
def leaf0 : TlbEntry := ⟨0, 0, 0, 2, 1, true, true, true⟩
theorem translated_of (tm : Team) (acc : Access) (va : Nat → Nat)
    (h : ∀ l ∈ tm.active, va l < 2 ^ 56 ∧ (sys tm).tlbHit 0 ((sys tm).ctxOf 0) (va l) = some leaf0 ∧
      ((sys tm).leafAccess leaf0 (va l) acc tm.p1).toOption = some (va l)) : Translated (sys tm) 0 tm acc va va :=
  fun l hl => ⟨(h l hl).1, leaf0, (h l hl).2.1, ok_of (h l hl).2.2⟩

/-- A FENCE stands in the queue; the queue is full of arrivals; a store to another device is unanswered. -/
def tmFn : Team := { tmM with sq := [⟨0, .fence .core, some .core, some .core, 0x10000, false⟩], seq := 1 }
def tmSq : Team := { tmM with sq := List.replicate Config.storeQueue ⟨0, .barrier 1, some .core, none, 0x10000, false⟩ }
def sysRem (tm : Team) : State := { sys tm with remote := [⟨9, 1, 0, 0x1000, 0x20000, 4, 0, .store 0 0 0 0x20000 0 0⟩] }

theorem wit_StoresAndFences : Ready (sys tmM) 0 0 tmM (.stD ⟨.v 2, .v 6, 255, true, false⟩) false .no [src1 (.v 6), srcN (.v 2) 2] ∧
    (∀ l ∈ tmM.active, laneAddress tmM (.v 6) (255 * 8) l % 8 = 0) ∧
    Translated (sys tmM) 0 tmM .write (laneAddress tmM (.v 6) (255 * 8)) (laneAddress tmM (.v 6) (255 * 8)) ∧
    QueueOpen tmM (some .device) ∧
    Ready (sys tmFn) 0 0 tmFn (.stB ⟨.v 2, .v 6, 0, false, false⟩) false .no [src1 (.v 6), srcN (.v 2) 1] ∧ tmFn.fenced = true ∧
    Ready (sys tmSq) 0 0 tmSq (.stB ⟨.v 2, .v 6, 0, false, false⟩) false .no [src1 (.v 6), srcN (.v 2) 1] ∧ tmSq.fenced = false ∧
    Config.storeQueue < tmSq.sq.length + tmSq.warps.length ∧
    Translated (sys tmSq) 0 tmSq .write (laneAddress tmSq (.v 6) 0) (laneAddress tmSq (.v 6) 0) :=
  ⟨ready_of _ _ _ _ _ (by decide +kernel), by decide +kernel, translated_of _ _ _ (by decide +kernel),
    ⟨rfl, by decide +kernel, fun h => by rcases h with h | h <;> cases h⟩, ready_of _ _ _ _ _ (by decide +kernel), rfl,
    ready_of _ _ _ _ _ (by decide +kernel), by decide +kernel, by decide +kernel, translated_of _ _ _ (by decide +kernel)⟩
theorem wit_StoresAndFences_fence : Ready (sys tmA) 0 0 tmA (.fence .system false) false .no [] ∧ tmA.atoms = [] ∧ tmA.bad = [] ∧
    tmA.sq.length < Config.storeQueue ∧ (sys tmA).teamRemoteQuiet 0 0 tmA = true ∧ tmA.failed = [] ∧
    Ready (sysRem tmA) 0 0 tmA (.fence .domain true) true .no [] ∧ (sysRem tmA).teamRemoteQuiet 0 0 tmA = false ∧
    NothingDue (sysRem tmA) 0 tmA :=
  ⟨ready_of _ _ _ _ _ (by decide +kernel), rfl, rfl, by decide, by decide +kernel, rfl, ready_in _ _ _ _ _ _ rfl rfl (by decide +kernel),
    by decide +kernel, nothingDue_of tmA rfl⟩
theorem wit_AtomicsQueue : Ready (sys tmM) 0 0 tmM (.atom ⟨.v 2, .v 6, .v 12, false, true, false⟩ .cas) false .no
      ([src1 (.v 6), srcP (.v 12) true, dstP (.v 2) true] ++ [srcP (.v 2) true]) ∧
    Ready (sys tmM) 0 0 tmM (.ared (.v 6) (.v 12) .xor false true) true .no [src1 (.v 6), srcP (.v 12) false] ∧
    Ready (sys tmM) 0 0 tmM (.cas128 (.v 16) (.v 6) (.v 12) false) false .no [src1 (.v 6), srcN (.v 12) 4, dstN (.v 16) 4, srcN (.v 16) 4] ∧
    (∀ l ∈ tmM.active, laneAddress tmM (.v 6) 0 l % 16 = 0) ∧
    Translated (sys tmM) 0 tmM .atomic (laneAddress tmM (.v 6) 0) (laneAddress tmM (.v 6) 0) ∧ QueueOpen tmM none ∧
    Ready (sys tmFn) 0 0 tmFn (.ared (.v 6) (.v 12) .add false false) false .no [src1 (.v 6), srcP (.v 12) false] ∧ tmFn.fenced = true :=
  ⟨ready_of _ _ _ _ _ (by decide +kernel), ready_of _ _ _ _ _ (by decide +kernel), ready_of _ _ _ _ _ (by decide +kernel),
    by decide +kernel, translated_of _ _ _ (by decide +kernel), ⟨rfl, by decide +kernel, fun h => by rcases h with h | h <;> cases h⟩,
    ready_of _ _ _ _ _ (by decide +kernel), rfl⟩

/-- A store of two lanes that overlap, at the end of a sector; a FENCE; and an arrival, each alone in the queue. -/
def ls0 : List LaneStore := [⟨0, 0x2003C, 0x2003C, [1, 2, 3, 4]⟩, ⟨1, 0x2003E, 0x2003E, [5, 6]⟩]
def tmSt : Team := { tmA with sq := [⟨0, .store ls0, some .device, none, 0x10000, false⟩], seq := 1 }
def tmBr : Team := { tmA with sq := [⟨0, .barrier 1, some .core, none, 0x10000, false⟩], seq := 1, pend := [(1, 0)] }
/-- A queue whose store has an earlier load before it. -/
def tmStLd : Team := { tmLd with sq := [⟨1, .store ls0, none, none, 0x10000, false⟩], seq := 2 }
theorem wit_StoresReachMemory : tmSt.sq = [⟨0, .store ls0, some .device, none, 0x10000, false⟩] ∧ tmSt.status = .live ∧ tmSt.loadsDone 0 = true ∧
    (sys tmSt).noRemoteAtom 0 0 = true ∧ (sys tmSt).releaseOk 0 .device = true ∧
    (∀ x ∈ ls0, x.pa < 2 ^ 55 ∧ x.pa % 64 + x.bytes.length ≤ 64) ∧ tmStLd.loadsDone 1 = false ∧
    tmFn.loadsDone 0 = true ∧ (sys tmFn).noRemoteAtom 0 0 = true ∧ (sys tmFn).releaseOk 0 .core = true ∧
    tmBr.loadsDone 0 = true ∧ (sysB 1 tmBr).noRemoteAtom 0 0 = true ∧ (sysB 1 tmBr).block? 0 = some (blkB 1) ∧
    PMap.get? (blkB 1).bars 1 = some ⟨.block, 2, 1, 0⟩ := by decide +kernel
/-- One store on its way home, the second of the order; the first is of another sector. -/
def sysOrd : State :=
  (sys tmA).setCore 0 { (sys tmA).core 0 with order := [⟨2047, [(0, 1)], 0, 0, 0, 0x1FFC0, [0x1FFC0], 0, 0⟩, ⟨2048, [(63, 9)], 0, 0, 0, 0x2003F, [0x2003F], 0, 0⟩] }
theorem wit_StoresReachMemory_home : (sysOrd.core 0).order[1]? = some ⟨2048, [(63, 9)], 0, 0, 0, 0x2003F, [0x2003F], 0, 0⟩ ∧
    sysOrd.localSector ⟨2048, [(63, 9)], 0, 0, 0, 0x2003F, [0x2003F], 0, 0⟩ = some 2048 ∧
    (∀ x ∈ (sysOrd.core 0).order.take 1, x.sector ≠ 2048 ∧ sysOrd.localSector x ≠ some 2048) := by decide +kernel
def tmAt : Team :=
  { tmA with sq := [⟨0, .atomic 7 (.op .add true) true [⟨0, 0x20038, 0x20038, 1, 0⟩], none, none, 0x10000, false⟩], seq := 1,
             atoms := [⟨7, 0, 0x10000, .lane 2, 2, [0], [], [], [], none, false⟩] }
def tmAr : Team := { tmA with atoms := [⟨7, 0, 0x10000, .lane 1022, 2, [0, 3], [(0, 5), (3, 6)], [], [3], none, false⟩], seq := 1 }
theorem wit_AtomicsAtMemory : tmAt.sq = [⟨0, .atomic 7 (.op .add true) true [⟨0, 0x20038, 0x20038, 1, 0⟩], none, none, 0x10000, false⟩] ∧
    tmAt.loadsDone 0 = true ∧ (sys tmAt).noRemoteAtom 0 0 = true ∧ ((sys tmAt).core 0).order = [] ∧
    (sys tmAt).route 0x20038 = .local_ 0x20038 ∧ (sys tmAt).poisoned (0x20038 / 64) = false ∧ (sys tmAt).ecc = [] ∧ tmAt.status = .live ∧
    tmAr.atoms.find? (fun q => q.id == 7) = some ⟨7, 0, 0x10000, .lane 1022, 2, [0, 3], [(0, 5), (3, 6)], [], [3], none, false⟩ ∧
    1022 + 2 ≤ 1024 ∧ ([0, 3] : List Nat).Nodup := by decide +kernel
theorem wit_AtomicsAtMemory_all : ∀ l ∈ ([0, 3] : List Nat), ∃ v : BitVec 128, (l, v) ∈ [((0 : Nat), (5 : BitVec 128)), (3, 6)] := by
  intro l hl
  simp only [List.mem_cons, List.not_mem_nil, or_false] at hl
  rcases hl with rfl | rfl
  · exact ⟨5, by simp⟩
  · exact ⟨6, by simp⟩

/-- A descriptor in s0 to s6: group 1 on counter 2, one word from 0x20000, its result at 0x20040, its record at 0x20080. -/
def tmCo (w : Word) : Team :=
  { tmA with u := [(0, ⟨w, 0⟩), (1, ⟨0x20000, 0⟩), (2, ⟨0, 0⟩), (3, ⟨0x20040, 0⟩), (4, ⟨0, 0⟩), (5, ⟨0x20080, 0⟩), (6, ⟨0, 0⟩)] }
def grp0 : RedGroup := ⟨0, 0, 0, 2, 1, 4294967295, true, ⟨0, ⟨8, 0, 24, 0, 0⟩, []⟩⟩
def sysCo (tm : Team) : State := { sys tm with groups := [(1, grp0)] }
theorem wit_CollectiveWords : Ready (sysCo (tmCo 0x2001)) 0 0 (tmCo 0x2001) (.collAdd (.s 0) false) false .no [srcN (.s 0) 7] ∧
    (tmCo 0x2001).fenced = false ∧ (tmCo 0x2001).descWord (.s 0) 0 < 2 ^ 16 ∧
    (∃ s1 src dst rc, (sysCo (tmCo 0x2001)).collChecks 0 (tmCo 0x2001) (.s 0) = (s1, .ok (grp0, src, dst, rc)) ∧
      s1.forkReady 0 0 (tmCo 0x2001) = true ∧ (s1.core 0).order = [] ∧ (tmCo 0x2001).relOf false = none ∧ (tmCo 0x2001).colls.length < Config.colls ∧
      wideScope ((tmCo 0x2001).relOf false) = false) ∧
    2 ^ 16 ≤ (tmCo 0x12001).descWord (.s 0) 0 ∧
    (∀ g, PMap.get? (sysCo (tmCo 0x2002)).groups ((tmCo 0x2002).collDesc (.s 0)).group = some g → g.ctx ≠ 0 ∨ g.ready = false) :=
  ⟨ready_in _ _ _ _ _ _ rfl rfl (by decide +kernel), rfl, by decide +kernel, ⟨_, _, _, _, rfl, by decide +kernel, rfl, rfl, by decide, rfl⟩,
    by decide +kernel, fun g h => by cases h⟩
def co0 (dst : List (Nat × Nat)) : CollOp := ⟨3, 1, 4294967295, 2, dst, 0x20080, 4, false, .device, 0⟩
def sysCt (n : Nat) : State := { sys { tmA with colls := [co0 [(0x20040, 4)]] } with cycle := n }
theorem wit_CollectiveWords_record : ({ tmA with colls := [co0 []] } : Team).colls.find? (fun q => q.id == 3) = some (co0 []) ∧
    (sysCt 0).route 0x20080 = .local_ 0x20080 ∧ 0x20080 % 16 = 0 ∧
    (sysCt 0).cycle < (co0 []).at_ + ((sysCt 0).groupTimeout + (sysCt 0).remoteTimeout) * Config.cyclesPerTenth ∧
    (co0 []).at_ + ((sysCt (2 ^ 40)).groupTimeout + (sysCt (2 ^ 40)).remoteTimeout) * Config.cyclesPerTenth ≤ (sysCt (2 ^ 40)).cycle ∧
    (∀ q ∈ [co0 [(0x20040, 4)]], q.id = 3 → q = co0 [(0x20040, 4)]) ∧
    (∀ q ∈ (co0 [(0x20040, 4)]).dst, (sysCt 0).route q.1 = .local_ q.1 ∧ q.1 + q.2 ≤ 2 ^ 55) ∧
    spreadByte (co0 [(0x20040, 4)]).dst [1, 2, 3, 4] 0x20043 = some 4 ∧ spreadByte (co0 [(0x20040, 4)]).dst [1, 2, 3, 4] 0x20044 = none := by
  decide +kernel

/-! Hypotheses met: copies and sharing groups. -/

/-- A descriptor of one row of four bytes that is copied within the own scratchpad, from 0 to 0x80, on counter 1; `n1` rows. -/
def tmCp (n1 : Word) : Team :=
  { tmA with u := ((List.range 14).zip [0, 0, 0x80, 0, 0xC1, 4, 0x10000 + n1, 1, 0, 0, 0, 0, 0, 0]).map fun p => (p.1, ⟨p.2, 0⟩) }
def cp0 : Copy := (tmCp 1).copyOf 0 .tcopy (.s 0) 1 true [(0, 0)]
def blkCp (n : Nat) (x : Copy) : Block := { Block.initial 0 0 0 0 1 wordKernel none none with copies := (List.range n).map fun i => { x with id := 100 + i } }
def sysCp (n : Nat) (tm : Team) (x : Copy) : State := { sys tm with blocks := [(0, blkCp n x)] }
def tmCp2 : Team := { tmCp 1 with second := true }
theorem wit_CopyWords : Ready (sysCp 0 (tmCp 1) cp0) 0 0 (tmCp 1) (.tcopy (.s 0) false) false .no [srcN (.s 0) 14] ∧ (tmCp 1).fenced = false ∧
    (sysCp 0 (tmCp 1) cp0).block? 0 = some (blkCp 0 cp0) ∧ (tmCp 1).second = false ∧ ((sysCp 0 (tmCp 1) cp0).copyTrap 0 cp0).isNone = true ∧
    ((tmCp 0).copyOf 0 .tcopy (.s 0) 1 true [(0, 0)]).rejected = true ∧
    Ready (sysCp 0 tmCp2 cp0) 0 0 tmCp2 (.tfill (.s 0) false) false .no [srcN (.s 0) 14] ∧ tmCp2.second = true ∧ (∀ y ∈ (blkCp 0 cp0).copies, y.team = 0 → y.admitted = true ∨ y.counts = false) ∧
    ((blkCp 32 cp0).copies.filter (·.admitted)).length = Config.copies ∧
    (∃ x, (blkCp 1 { cp0 with admitted := false }).copies.find? (fun y => !y.admitted) = some x) ∧
    ((blkCp 1 { cp0 with admitted := false }).copies.filter (·.admitted)).length < Config.copies ∧
    4 * (sys tmA).cycle + cp0.team % 4 < ({ (sys tmA).core 0 with slot := 4 } : Core).slot ∧ cp0.counts = true :=
  ⟨ready_in _ _ _ _ _ _ rfl rfl (by decide +kernel), rfl, rfl, rfl, by decide +kernel, by decide +kernel,
    ready_in _ _ _ _ _ _ rfl rfl (by decide +kernel), rfl, by decide, by decide +kernel, ⟨_, rfl⟩, by decide +kernel, by decide +kernel, rfl⟩
/-- The copy has a place, and has begun. -/
def sysRow (x : Copy) : State := sysCp 1 tmA { x with id := 100 }
def cpS : Copy := { cp0 with id := 100, started := true }
/-- A gather of ten rows whose indices lie in the own scratchpad from 0x40 on. -/
def cpG : Copy :=
  { cp0 with id := 100, kind := .tgath, started := true, batch := 1,
             desc := [0, 0, 0x80, 0, 0x1C1, 4, 0x40, 0, 10, 4, 0, 4] }
/-- A fill, and a copy from memory at 0x20000. -/
def cpF : Copy := { cpS with kind := .tfill, desc := [7, 0, 0x80, 0, 0x81, 4, 0x10001, 1, 0, 0, 0, 0, 0, 0] }
def cpM : Copy := { cpS with desc := [0x20000, 0, 0x80, 0, 0x81, 4, 0x10001, 1, 0, 0, 0, 0, 0, 0] }
theorem wit_CopyRowsArrive_start : (sysRow cp0).copy? 0 100 = some { cp0 with id := 100 } ∧ cp0.admitted = true ∧
    (sysRow cp0).halting 0 = false ∧ (sysRow cp0).forkPast 0 { cp0 with id := 100 } = true ∧
    (sysRow cp0).forked 0 { cp0 with id := 100 } = true ∧ (sysRow cp0).windowClear 0 { cp0 with id := 100 } = true ∧
    (sysCp 1 tmLd { cp0 with seq := 1 }).forkPast 0 { cp0 with seq := 1 } = false ∧ (blkCp 1 cpG).stopping = false ∧ (blkCp 1 cpG).upSp = [] ∧
    ((sysRow cp0).core 0).order = [] ∧ cpG.admitted = true ∧ cpG.started = true ∧ (sysRow cpG).copy? 0 100 = some cpG ∧ cpG.strided = false ∧
    8 * cpG.batch < cpG.rows ∧ cpG.iwait = 0 ∧ cpG.failed = [] ∧ cpG.isp = true ∧
    cpG.idxBase + 32 * cpG.batch + 4 * min 8 (cpG.rows - 8 * cpG.batch) ≤ (blkCp 1 cpG).spBytes := by decide +kernel
theorem wit_CopyRowsArrive : ∀ x ∈ [cpS, cpF, cpM], (sysRow x).block? 0 = some (blkCp 1 x) ∧ (sysRow x).copy? 0 100 = some x ∧
    (sysRow x).team? 0 x.team = some tmA ∧ tmA.status = .live ∧ x.flight = [] ∧
    (0 = x.issued ∧ (sysRow x).mayIssue 0 x = true ∧ (sysRow x).rowShut 0 x 0 = none) ∧
    (sysRow x).rowReady 0 { x with issued := max x.issued 1 } 0 = true ∧ (sysRow x).poison = [] ∧ (blkCp 1 x).upSp = [] ∧
    x.dstAt 0 < 2 ^ 31 ∧ x.swz = 0 ∧ x.failed = [] ∧ x.revoked = 0 ∧ x.id = 100 ∧ (sysRow x).ecc = [] ∧ x.silent 0 = false ∧
    x.rowLen ≤ 2 ^ 20 ∧ x.dsp = true ∧ (∀ o, o < x.rowLen → x.dstByte 0 o < (blkCp 1 x).spBytes) ∧
    (x.kind = .tfill ∨ (x.ssp = true ∧ ∀ o, o < x.rowLen → x.srcByte 0 o < (blkCp 1 x).spBytes) ∨
      (x.ssp = false ∧ x.srcAt 0 % 2 ^ 16 + x.rowLen ≤ 2 ^ 16 ∧ (∀ o, o < x.rowLen → (sysRow x).poisoned ((x.srcAt 0 + o) / 64) = false) ∧
        (sysRow x).tlbHit 0 0 (x.srcAt 0) = some leaf0 ∧
        ((sysRow x).leafAccess leaf0 (x.srcAt 0) .read x.p1).toOption = some 0x20000 ∧ (sysRow x).route 0x20000 = .local_ 0x20000)) := by
  decide +kernel

/-- Cores 0 and 1 are the context's; s0 of a team names both with tag 255; the group exists with both in it, or with slot 1 revoked. -/
def tmSg (w : Word) : Team := { tmA with u := [(0, ⟨w, 0⟩)] }
def sysSg (g : Option Nat) (r : BitVec 12) (tm : Team) : State :=
  { sys tm with
    part := [(0, 0x8000), (1, 0x8000)], blocks := [(0, { Block.initial 0 0 0 0 1 wordKernel none none with group := g })],
    sgroups := if g.isSome then [(255, ⟨0, 0, 255, 3, 3, r⟩)] else [] }
theorem wit_SharingGroups_join : Ready (sysSg none 0 (tmSg 0xFF003)) 0 0 (tmSg 0xFF003) (.sgjoin (.s 0) false) false .no [src1 (.s 0)] ∧
    (tmSg 0xFF003).descWord (.s 0) 0 < 2 ^ 20 ∧ ((tmSg 0xFF003).descWord (.s 0) 0).testBit 0 = true ∧
    (∀ k, k < 12 → ((tmSg 0xFF003).descWord (.s 0) 0).testBit k = true →
      (PMap.get? (sysSg none 0 (tmSg 0xFF003)).part (12 * 0 + k)) = some 0x8000) ∧
    PMap.get? (sysSg none 0 (tmSg 0xFF003)).sgroups (groupKey 0 0 255) = none ∧
    2 ^ 20 ≤ (tmSg 0x100001).descWord (.s 0) 0 ∧ ((tmSg 2).descWord (.s 0) 0).testBit 0 = false :=
  ⟨ready_in _ _ _ _ _ _ rfl rfl (by decide +kernel), by decide +kernel, by decide +kernel, by decide +kernel, by decide +kernel,
    by decide +kernel, by decide +kernel⟩
theorem wit_SharingGroups_map : Ready (sysSg (some 255) 2 (tmSg 1)) 0 0 (tmSg 1) (.sgmap (.s 0) false) false .no [src1 (.s 0)] ∧
    PMap.get? (sysSg (some 255) 2 (tmSg 1)).sgroups 255 = some ⟨0, 0, 255, 3, 3, 2⟩ ∧
    BitVec.ofNat 12 ((tmSg 1).descWord (.s 0) 0) &&& (2 : BitVec 12) = 0 ∧ ((tmSg 2).descWord (.s 0) 0).testBit 1 = true ∧
    (2 : BitVec 12).getLsbD 1 = true ∧ 2 ^ 12 ≤ (tmSg 0x1001).descWord (.s 0) 0 :=
  ⟨ready_in _ _ _ _ _ _ rfl rfl (by decide +kernel), by decide +kernel⟩
/-- A load of another member's team from core 0's scratchpad holds the group together. -/
def sysSgBusy : State :=
  (sysSg (some 255) 0 tmA).setTeam 1 0 { tmA with wld := [⟨1, 0, .lane 2, 4, [(0, 0, 0x10)], [], [], false, 0x10000, false, []⟩] }
theorem wit_SharingGroups_leave : Ready (sysSg (some 255) 0 tmA) 0 0 tmA (.sgleave false) false .no [] ∧
    (sysSg (some 255) 0 tmA).leaveReady 0 = true ∧ tmA.second = false ∧
    Ready (sysSg none 0 tmA) 0 0 tmA (.sgleave true) true .no [] ∧
    Ready sysSgBusy 0 0 tmA (.sgleave true) true .no [] ∧ sysSgBusy.leaveReady 0 = false ∧ (sysSgBusy.blocks.any fun p => p.1 != 0 && p.2.group == some 255) = false :=
  ⟨ready_in _ _ _ _ _ _ rfl rfl (by decide +kernel), by decide +kernel, rfl, ready_in _ _ _ _ _ _ rfl rfl (by decide +kernel),
    ready_in _ _ _ _ _ _ rfl rfl (by decide +kernel), by decide +kernel⟩

/-! Hypotheses met: the matrix sequencer and its engine. -/

/-- A sequencer at 0x10000 with some scalar registers: m1 = 3, m2 = 0, m3 = 65536, m4 = 16, m5 = 32. -/
def seqA : Sequencer := { Sequencer.initial true 0x10000 with m := [(1, 3), (3, 65536), (4, 16), (5, 32)] }
def blkM (q : Sequencer) : Block :=
  { Block.initial 0 0 0 0 1 wordKernel none none with seq := q, bars := [(1, ⟨.blockSeq, 2, 0, 0⟩), (2, ⟨.block, 2, 0, 0⟩)] }
def sysM (q : Sequencer) : State := { sys tmA with blocks := [(0, blkM q)] }
theorem seqReady_of (q : Sequencer) (i : Instr) (h : (!q.ended && !q.last && q.trap.isNone && i.legal) = true) :
    SeqReady (sysM q) 0 (blkM q) i := by
  simp only [Bool.and_eq_true, Bool.not_eq_true', Option.isNone_iff_eq_none] at h
  exact ⟨rfl, rfl, ⟨h.1.1.1, h.1.1.2, h.1.2, rfl⟩, h.2⟩

theorem wit_MatrixScalars : SeqReady (sysM seqA) 0 (blkM seqA) (.madd ⟨31, 1, 63, true, false⟩) ∧
    SeqReady (sysM seqA) 0 (blkM seqA) (.mmov 1 3 .lc false) ∧ SeqReady (sysM seqA) 0 (blkM seqA) (.msetsd 7 31 true) ∧
    SeqReady (sysM seqA) 0 (blkM seqA) (.bfp 63 false) ∧ NoLoopEnd seqA :=
  ⟨seqReady_of _ _ (by decide), seqReady_of _ _ (by decide), seqReady_of _ _ (by decide), seqReady_of _ _ (by decide),
    fun _ _ h => by cases h⟩
/-- Within a loop of counter 0 whose last word is at 0x10000, with two rounds left; and with one. -/
def seqL (n : BitVec 16) : Sequencer := { seqA with loops := [⟨0, 0xFFF0, 0x10000⟩], lc := [(0, n)] }
def seqIn : Sequencer := { seqA with loops := [⟨0, 0xFFF0, 0x10010⟩], lc := [(0, 2)] }
theorem wit_MatrixLoopsAndBarriers : SeqReady (sysM (seqL 2)) 0 (blkM (seqL 2)) (.mli 1 7 false) ∧ SeqReady (sysM seqIn) 0 (blkM seqIn) (.mloop 1 1 4 false) ∧
    (seqIn.mreg 1).toNat ≤ 65535 ∧ seqIn.loops.length < 4 ∧ (∀ x ∈ seqIn.loops, x.ctr ≠ 1) ∧
    (seqIn.pc + BitVec.ofNat 64 (4 * 4)).toNat ≤ (0x10010 : DWord).toNat ∧ (seqIn.mreg 2).toNat = 0 ∧
    ¬((seqIn.mreg 3).toNat ≤ 65535) ∧ ¬((seqIn.pc + BitVec.ofNat 64 (4 * 5)).toNat ≤ (0x10010 : DWord).toNat) ∧
    (seqL 2).lcreg 0 - 1 ≠ 0 ∧ (seqL 1).lcreg 0 - 1 = 0 :=
  ⟨seqReady_of _ _ (by decide), seqReady_of _ _ (by decide), by decide +kernel⟩
/-- Its arrival at barrier 1 is pending, and the one team has still to arrive, or has ended. -/
def seqP : Sequencer := { seqA with pend := [(1, 0)] }
def sysMX : State := { (sysM seqP).setTeam 0 0 { tmA with status := .exited } with cur := ⟨0, 0⟩ }
def engA : Engine := ⟨0x10000, .mcopy .sa 0 0 16, 0, []⟩
def seqE : Sequencer := { seqA with engine := some engA }
theorem wit_MatrixLoopsAndBarriers_bar : SeqReady (sysM seqA) 0 (blkM seqA) (.mbar 1 true) ∧ PMap.get? seqA.pend 1 ≠ some 0 ∧
    SeqReady (sysM seqP) 0 (blkM seqP) (.mwait 1 false) ∧ PMap.get? seqP.pend 1 = some 0 ∧
    { (sysM seqP) with blocks := [(0, { blkM seqP with bars := [(1, ⟨.blockSeq, 2, 1, 0⟩)] })] }.canComplete 0 1 = true ∧
    sysMX.canComplete 0 1 = false ∧ SeqReady (sysM seqE) 0 (blkM seqE) (.mbar 1 false) ∧ seqE.engine.isSome = true ∧
    (∀ x, PMap.get? (blkM seqA).bars 2 = some x → x.scope ≠ .blockSeq) :=
  ⟨seqReady_of _ _ (by decide), by decide, seqReady_of _ _ (by decide), rfl, by decide +kernel, by decide +kernel, seqReady_of _ _ (by decide),
    rfl, fun x h => by cases h; decide⟩
theorem wit_EngineWords : SeqReady (sysM seqA) 0 (blkM seqA) (.mcopy 4 5 4 .sa false) ∧ seqA.engine = none ∧
    (∃ op, (blkM seqA).mcopyOp 4 5 4 .sa = .ok op) ∧ (∃ e, (blkM seqA).mcopyOp 1 5 4 .sa = .error e) ∧
    SeqReady (sysM seqE) 0 (blkM seqE) (.bfs ⟨0, 28, 15, .bf16, .acc, .rn, false⟩) ∧ seqE.engine.isSome = true ∧
    (sysM seqE).block? 0 = some (blkM seqE) ∧ engA.draws = [] ∧ engA.op.upset (blkM seqE) = false :=
  ⟨seqReady_of _ _ (by decide), rfl, ⟨_, rfl⟩, ⟨_, rfl⟩, seqReady_of _ _ (by decide), rfl, rfl, rfl, rfl⟩
/-- One stage of radix 2 and stride 1 on one vector of two elements. -/
theorem wit_EngineWords_stage : ∀ i, i < 2 → (∀ q, q < 2 → i / (2 * 1) * (2 * 1) + i % 1 + q * 1 < 2) ∧ (2 : Nat) ≠ 0 := by decide

/-! Hypotheses met: the device's own steps. -/

theorem idle_of (s : State) (h : (s.linked && s.armWait.isEmpty && s.sessions.all fun p => p.2.held.isEmpty) = true) : HarbourIdle s := by
  simp only [Bool.and_eq_true, List.isEmpty_iff, List.all_eq_true] at h
  exact ⟨h.1.1, h.1.2, fun p hp => h.2 p hp⟩

/-- A launch with two blocks to start, on a device whose core 1 is free for its context. -/
def launchA : Launch :=
  ⟨0, 1, 0, [(0, 0)], 0, ⟨1, 0, 0, 0, 0⟩, wordKernel, 5, 2, 1, 2, 0, 10, [0], some 1, [0, 1], 0, 0, [], 0, false, 0⟩
def sysL : State :=
  { sys tmA with part := [(1, 0x8000)], launches := [(3, launchA)], ctxs := [(0, ⟨0, 0x40000, 0, 0, 4, 100, 0⟩)] }
def stEnd : State := { sys { tmA with status := .exited } with blocks := [(0, { Block.initial 0 0 0 0 1 wordKernel none none with seq := Sequencer.initial false 0 })] }
/-- An idle datapath; a team whose watchdog trap is due. -/
def stIdle (tm : Team) : State := (sys tm).setCore 0 { (sys tm).core 0 with dps := [] }
def tmDue : Team := { tmA with wdogDue := true }
/-- A fault entry found the table full. -/
def tmOf : Team := { tmA with faults := [fe0], overflow := [fe0] }
theorem wit_SchedulingEvents : (∃ l, sysL.nextLaunch = some (3, l) ∧ sysL.freeCore l.ctx = some 1 ∧ l.waiting = [0, 1] ∧
      l.rec_.rf = false ∧ (PMap.get? sysL.ctxs l.ctx).map (·.trace) = some 0) ∧
    HarbourIdle stEnd ∧ (∃ b, stEnd.block? 0 = some b ∧ b.seq.ended = true ∧ b.seq.engine = none ∧ b.group = none) ∧ (stEnd.core 0).trace.on = false ∧
    (∀ t, t < 16 → ∀ tm ∈ stEnd.team? 0 t, tm.status = .exited ∨ tm.status = .killed) ∧
    PMap.get? ((stIdle tmA).core 0).dps 0 = none ∧ (stIdle tmA).readyTeams 0 0 = [(0, tmA)] ∧ GoesBefore (0, tmA) (0, tmA) ∧
    (stIdle tmDue).readyTeams 0 0 = [(0, tmDue)] ∧ tmDue.p1 = false ∧ tmDue.words = 0 ∧ tmDue.advs = [] ∧ tmDue.overflow = [] ∧
    (stIdle tmOf).readyTeams 0 0 = [(0, tmOf)] ∧ tmOf.ovfHeld < tmOf.overflow.length ∧ tmOf.faults ++ tmOf.overflow = fe0 :: [fe0] :=
  ⟨⟨launchA, by decide +kernel⟩, idle_of _ rfl, ⟨_, rfl, rfl, rfl, rfl⟩, rfl, by decide +kernel, by decide +kernel, by decide +kernel,
    .inr ⟨Iff.rfl, .inr ⟨.inr rfl, .inr ⟨rfl, .inr ⟨rfl, Nat.le_refl _⟩⟩⟩⟩, by decide +kernel, rfl, rfl, rfl, rfl,
    by decide +kernel⟩
/-- A window LDP's trap is due; and that of a store that a release has waited for. -/
def tmFl : Team := { tmA with failed := [⟨.remoteTimeout, 0x20000, 1, some (0xFF00, false)⟩] }
theorem wit_SchedulingEvents_late : (stIdle tmLt).readyTeams 0 0 = [(0, tmLt)] ∧ tmLt.failed = [] ∧ tmLt.late.length = 1 ∧
    (stIdle tmFl).readyTeams 0 0 = [(0, tmFl)] ∧ tmFl.failed.map (·.at_) = [some (0xFF00, false)] ∧
    tmA.lateTrap = none ∧ tmDue.lateTrap = none ∧ tmOf.lateTrap = none ∧ (sys tmA).block? 191 = none := by decide +kernel
/-- Core 0 asks for work: its one team is a donor with ten iterations, or has none left. -/
def stShore (hi : Word) : State := { sys { tmA with rangeEnd := hi } with shoreQ := [(0, [0, 1])] }
/-- A winner withheld for 9 units; the core's trace is on. -/
def stHeld : State :=
  (sys tmA).setCore 0 { (sys tmA).core 0 with dps := [(0, ⟨some 0, some 9, 3⟩)], trace := { Trace.off with on := true, log2 := 12, types := 0x80 } }
theorem wit_SchedulingEvents_shore : PMap.wf (stShore 10).blocks = true ∧ (PMap.get? (stShore 10).shoreQ 0).getD [] = [0, 1] ∧
    (∀ p ∈ (stShore 10).cores, p.2.shore = .idle) ∧ (stShore 10).donors 0 0 = [(0, 10)] ∧ (stShore 1).donors 0 0 = [] ∧
    ((stShore 0).setCore 0 { (stShore 0).core 0 with shore := .none }).rangeWaiters 0 = [] ∧
    (∀ p ∈ (((stIdle tmA).core 0).dps), p.2.withheld = none) ∧ (stHeld.core 0).dps = [(0, ⟨some 0, some 9, 3⟩)] ∧
    9 ≤ min (stHeld.capOf 0) ((stHeld.core 0).allow + stHeld.rateOf 0) ∧ (stHeld.core 0).trace.on = true ∧
    (stHeld.core 0).trace.types.getLsbD 7 = true ∧ (stHeld.core 0).trace.held < 64 ∧ stHeld.cycle % 4096 = 0 ∧ ((sys tmA).block? 0).map (·.seq.engine) = some none := by decide +kernel

/-- A block that is asked to stop, its one team stopped at its safe point. -/
def blkStop : Block :=
  { Block.initial 0 0 0 0 1 { wordKernel with safe := [(0x10000, [])] } none none with stopping := true }
def tmStop : Team := { tmA with status := .stopped }
def sysStop (tm : Team) (n : Nat) : State := { sys tm with blocks := [(0, blkStop)], cycle := n }
def sysSaved : State := { sys tmA with blocks := [], teams := [], part := [(0, 0x8000)], saved := [⟨{ blkStop with stopping := false }, [(0, tmStop)]⟩] }
theorem wit_PreemptionEvents : (sysStop tmA 0).block? 0 = some blkStop ∧ tmA.status = .live ∧ (tmA.words = 0 ∧ tmA.advs = [] ∧ tmA.pad = none ∧ tmA.p1 = false ∧
      ∃ e ∈ blkStop.rec_.safe, e.1 = tmA.pc) ∧ blkStop.stopping = true ∧
    (sysStop tmA 0).cycle < blkStop.stopAt + Config.cyclesPerMs ∧ blkStop.stopAt + Config.cyclesPerMs ≤ (sysStop tmA 2000000).cycle ∧
    (sysStop tmStop 0).saveReady 0 blkStop = true ∧ blkStop.group = none ∧ blkStop.seq.engine = none ∧
    (sysStop tmStop 0).saveUpset 0 blkStop = false ∧ blkStop.copies = [] ∧ ((sysStop tmStop 0).core 0).trace.on = false ∧
    HarbourIdle (sysStop tmStop 0) :=
  ⟨rfl, rfl, ⟨rfl, rfl, rfl, rfl, _, List.mem_singleton.2 rfl, rfl⟩, rfl, by decide, by decide, by decide +kernel, rfl, rfl, by decide +kernel, rfl,
    rfl, idle_of _ rfl⟩
theorem wit_PreemptionEvents_restore : (∃ x, sysSaved.saved[0]? = some x ∧ sysSaved.freeCore x.block.ctx = some 0 ∧ PMap.wf x.teams = true ∧
      (∀ p ∈ x.teams, p.1 < 16 ∧ p.2.status = .stopped ∧ p.2.wait = noWait) ∧ x.block.seq.trap = none ∧
      (PMap.get? sysSaved.ctxs x.block.ctx).map (·.trace) = some 0) :=
  ⟨⟨{ blkStop with stopping := false }, [(0, tmStop)]⟩, by decide +kernel⟩
def tmW2 : Team := { tmA with p1 := true, wdog2From := some 0 }
theorem wit_PreemptionEvents_watchdog : tmA.wdogDue = false ∧ tmA.wdog2From = none ∧
    (let d := ((PMap.get? (sys tmA).ctxs ((sys tmA).ctxOf 0)).map (·.wdogMs)).getD 100 * Config.cyclesPerMs
     (sys tmA).cycle + tmA.wdogElapsed < tmA.wdogFrom + d ∧ tmA.wdogFrom + d ≤ (sysStop tmA 200000000).cycle + tmA.wdogElapsed ∧ 0 + d ≤ (sysStop tmW2 200000000).cycle) ∧
    HarbourIdle (sysStop tmW2 200000000) := ⟨rfl, rfl, by decide +kernel, idle_of _ rfl⟩

/-! Hypotheses met: memory, the fabric, the Harbour and launches. -/

/-- Sector 2048 is being read from its stack, and is being written; a row is being copied; a page is being walked. -/
def hq (w : Bool) : HbmReq := ⟨stackOf (64 * 2048), 5, 2048, w⟩
def sysH : State :=
  { sys tmA with
    hbmReqs := [hq false], remaps := [], errWindow := [(winKey 1 7, [1, 2, 3])], walks := [⟨0, 0, 2, 0, none⟩],
    declared := [(1, 7)], poolDeclared := [(191, 3)] }
theorem wit_MemoryEvents : PMap.wf sysH.l2 = true ∧
    sysH.hbmReqs.find? (fun x => x.stack == stackOf (64 * 2048) && x.tag == 5) = some (hq false) ∧ sysH.remapping 2048 = false ∧
    sysH.ready = true ∧ 64 * 0x23FFFFFFF ≤ Config.maxPA ∧ sysH.freeRows.contains (rowKey (64 * 0x23FFFFFFF)) = false ∧
    (1, 7) ∈ sysH.declared ∧ 2 ≤ (sysH.errsOf 1 7).length ∧ (∀ x ∈ sysH.remaps, ¬(x.stack = 1 ∧ x.row = 7)) ∧
    sysH.poolDeclared.find? (fun p => p.1 == 191) = some (191, 3) ∧ sysH.walks[0]? = some ⟨0, 0, 2, 0, none⟩ ∧ sysH.hbmWait = [] ∧
    ({ sysH with remaps := [⟨stackOf (64 * 2048), rowOf 2048, false⟩] } : State).remapping 2048 = true := by
  decide +kernel
theorem wit_MemoryEvents_spare : sysH.spareless 1 7 = false := by
  have h : sysH.sparesUsed 1 7 = 0 := by decide +kernel
  simp [State.spareless, h, Config.spareRows]
/-- The last bank of core 0's pool is gone; a window load stands first. -/
def tmWl : Team := { tmA with wld := [⟨1, 1, .lane 60, 16, [(0, 0, 0x10), (2, 0, 0x20)], [2], [], false, 0x10000, false, []⟩], seq := 2 }
theorem wit_MemoryEvents_pool : (({ sys tmA with cores := [(0, { Core.initial with spares := 0 })] } : State).core 0).spares ≤
      (({ sys tmA with cores := [(0, { Core.initial with spares := 0 })] } : State).core 0).lastingBanks.length ∧
    ((sys tmA).core 0).lastingBanks.length < ((sys tmA).core 0).spares ∧ (sys tmA).ready = true ∧
    (∀ b ∈ (sys tmA).block? 0, meets b.upSp 0x10 16 = false) ∧
    ({ sys tmA with remaps := [⟨1, 7, false⟩] } : State).remaps = [⟨1, 7, false⟩] ∧
    (sys tmWl).winReady tmWl = tmWl.wld ∧ ((sys tmWl).winReady { tmWl with sq := [⟨0, .fence .core, some .core, some .core, 0x10000, false⟩] } = []) ∧
    (∀ x ∈ tmWl.wld, ∀ y ∈ tmWl.late, y.id ≠ x.id) ∧
    tmWl.queuedPad 1 0 0x10 = none ∧ meets [2] 0x10 1 = true ∧
    ({ tmWl with sq := [⟨0, .window [⟨0, 0, 0x10, [1]⟩], none, none, 0x10000, false⟩] } : Team).queuedPad 1 0 0x10 = some 1 ∧ (sys tmA).winReady tmA = [] ∧ (([(0, 0, 0x10), (2, 0, 0x20)] : List (Nat × Nat × Nat)).map (·.1)).Nodup ∧ 60 + 4 ≤ 1024 := by decide +kernel

/-- An export entry of two MiB at 0x200000, with writing, for device 5 and context 3. -/
def exp0 : DWord := BitVec.ofNat 64 (2 ^ 63 + 2 ^ 62 + 5 * 2 ^ 46 + 3 * 2 ^ 38 + 1 * 2 ^ 19 + 1)
def sysX : State := { sys tmA with exports := [(1023, exp0)] }
theorem wit_FabricEvents : sysX.ready = true ∧ sysX.linked = true ∧ sysX.deviceId ≠ none ∧ sysX.ecc = [] ∧ ({ sysX with portsDown := List.range 18 } : State).linked = false ∧
    sysX.exported ⟨1, 5, 3, 0x3FFFF8, .read 8⟩ = true ∧ sysX.exported ⟨1, 5, 3, 0x3FFFF9, .read 8⟩ = false ∧
    sysX.exported ⟨1, 5, 3, 0x200000, .write [1, 2]⟩ = true ∧ sysX.exported ⟨1, 4, 3, 0x200000, .write [1]⟩ = false ∧
    (∀ i, i < 8 → sysX.poisoned ((0x3FFFF8 + i) / 64) = false) := by decide +kernel
/-- Team 0's load of lane 0 is with device 1. -/
def rq0 : RemoteReq := ⟨9, 1, 0, 0x1000, 0x20000, 4, 0, .load 0 0 7 0⟩
def sysRl (n : Nat) : State := { sys tmLd with remote := [rq0], cycle := n }
theorem wit_FabricEvents_answer : (sysRl 0).remote.find? (fun q => q.id == 9) = some rq0 ∧ (sysRl 0).linked = true ∧
    tmLd.out.find? (fun q => q.id == 7) = some ps0 ∧ (∀ r ∈ (sysRl 0).remote, r.id ≠ 8) ∧
    (sysRl 0).cycle < rq0.at_ + (sysRl 0).remoteTimeout * Config.cyclesPerTenth ∧
    rq0.at_ + (sysRl 4000000).remoteTimeout * Config.cyclesPerTenth ≤ (sysRl 4000000).cycle ∧
    rq0 ∈ (sysRl 0).remote ∧ rq0.dev = 1 ∧ rq0.what = .load 0 0 7 0 ∧ (sysRl 0).team? 0 0 = some tmLd ∧ tmLd.status = .live ∧
    ps0.lanes.find? (fun y => y.lane == 0) = some ⟨0, 0x20000, some 0x20000, false, true, false, false, none⟩ ∧
    ((sysRl 0).core 0).order = [] ∧ ([1, 2, 3, 4] : List Byte).length = rq0.len ∧ ps0.dest = .lane 5 ∧ 5 + 1 ≤ 1024 := by decide +kernel
/-- Quadrant 0 of stack 0 at 106 degrees; or, cooler and throttled, with bank 3 of HBM stack 1 at 106. -/
def sysHot : State := { sys tmA with temps := [(0, 106)] }
def sysWarm : State := { sys tmA with temps := [(0, 96), (67, 106)], throttle := [0], rate := [(0, 5)] }
theorem wit_ResetsAndFirmware_heat : (0 : Nat) < 4 ∧ PMap.get? sysHot.temps (sensorKey (.compute (coreDie 0) 0)) = some 106 ∧
    sysHot.rateOf 0 = 1 ∧ sysWarm.hotStack (coreDie 0) = false ∧ coreQuadrant 0 ∈ sysWarm.throttle ∧
    PMap.get? sysWarm.temps (sensorKey (.bank 1 3)) = some 106 ∧ sysWarm.rateOf 0 = 1 ∧
    ({ sysWarm with rate := [(0, 40)] } : State).rateOf 0 = 10 := by decide +kernel
theorem wit_ResetsAndFirmware : PMap.wf (sys tmA).cores = true ∧ (116 : Int) > 115 ∧ (95 : Int) < 96 ∧
    PMap.get? State.reset.images 0 = some ⟨true, true, 0, []⟩ ∧ State.reset.fuseMin ≤ 0 ∧
    (let s : State := { State.reset with images := [(0, ⟨true, true, 0, []⟩), (1, ⟨true, true, 2, []⟩)], fuseMin := 1 }
     s.ready = false ∧ (∀ x ∈ PMap.get? s.images 0, ¬s.fuseMin ≤ x.version) ∧ ∃ x, PMap.get? s.images 1 = some x ∧ s.fuseMin ≤ x.version) :=
  by decide +kernel

/-- A session that may send every command and expects number 7; a command of it. -/
def sess0 : Session := ⟨⟨true, [], true⟩, 7, false, [(⟨11, 0, 16, 6, 0⟩, [0, 0, 0, 0])], []⟩
def sysS : State := { State.reset with ready := true, deviceId := some 0, sessions := [(2, sess0)] }
def cmd (opc ctx : BitVec 8) (p : List Word) : Cmd := ⟨2, ⟨opc, ctx, BitVec.ofNat 16 (4 * p.length), 7, 0⟩, p⟩
theorem turn_of (s : State) (c : Cmd) (opc : BitVec 8) (x : Session) (h0 : PMap.get? s.sessions c.sess = some x)
    (h : (s.linked && s.armWait.isEmpty && s.sessions.all fun p => p.2.held.isEmpty) = true) (h1 : x.busy = false) (h2 : x.next = c.hdr.seq.toNat)
    (h3 : turnedAway x.grant { c.hdr with opc := opc } = none) : Turn s c opc x := ⟨h0, idle_of s h, h1, h2, h3⟩
theorem wit_SessionsAndConfiguration : sysS.linked = true ∧ ({ sysS with portsDown := List.range 18 } : State).linked = false ∧
    PMap.get? sysS.sessions 3 = none ∧ PMap.get? sysS.sessions 2 = some sess0 ∧ sess0.next < 2 ^ 32 ∧
    ahead sess0 8 = 1 ∧ ahead sess0 262 = 255 ∧ sess0.held.length < Config.heldCommands ∧ behind sess0 6 = 1 ∧
    255 < ahead sess0 263 ∧ 256 < behind sess0 263 ∧ HarbourIdle sysS ∧ sess0.busy = false ∧ sess0.next = (cmd 14 0 []).hdr.seq.toNat :=
  ⟨rfl, rfl, rfl, rfl, by decide, by decide, by decide, by decide, by decide, by decide, by decide, idle_of _ rfl, rfl, rfl⟩
theorem wit_SessionsAndConfiguration_config : Turn sysS (cmd 10 0 [0, 4607]) 10 sess0 ∧ sysS.ctxs = [] ∧
    Turn sysS (cmd 10 0 [1, 65535]) 10 sess0 ∧ Turn sysS (cmd 10 0 [255, 1]) 10 sess0 ∧ Turn sysS (cmd 11 0 [3, 0]) 11 sess0 ∧
    Turn sysS (cmd 11 0 [256, 0]) 11 sess0 :=
  ⟨turn_of _ _ _ _ rfl rfl rfl rfl rfl, rfl, turn_of _ _ _ _ rfl rfl rfl rfl rfl, turn_of _ _ _ _ rfl rfl rfl rfl rfl,
    turn_of _ _ _ _ rfl rfl rfl rfl rfl, turn_of _ _ _ _ rfl rfl rfl rfl rfl⟩
theorem wit_SessionsAndConfiguration_grant : ({ sysS with nonces := [[1]] } : State).nonces = [[1]] ∧ sysS.sessions.length < 16 ∧
    PMap.get? sysS.sessions 1 = none ∧ (List.replicate 48 (0 : Byte)).length = 48 := by decide

/-- Core 191 is context 4's and at work. -/
def sysT : State :=
  { sysS with
    ctxs := [(4, ⟨0, 0, 0, 0, 1, 100, 0⟩)], part := [(191, 0x8004)], hbmRecs := [(7, [⟨7, 1, 2, 1, 9⟩])]
    blocks := [(191, { Block.initial 0 0 4 0 1 wordKernel none none with number := 0 })] }
theorem wit_TableCommands : Turn sysT (cmd 2 0 [191, 0x0004]) 2 sess0 ∧ Turn sysT (cmd 2 0 [0, 0x8004]) 2 sess0 ∧
    Turn sysT (cmd 2 0 [192, 0]) 2 sess0 ∧ PMap.get? sysT.ctxs 4 ≠ none ∧ sysT.launches = [] ∧ (sysT.core 191).withdrawn = false ∧
    (sysT.block? 191).isSome = true ∧ sysT.block? 0 = none ∧ Turn sysT (cmd 3 0 [191 + 256, 0]) 3 sess0 ∧
    Turn sysT (cmd 4 0 [1179647, 1, 1, 0]) 4 sess0 ∧ Turn sysT (cmd 4 0 [1179647, 2, 0, 0]) 4 sess0 ∧
    Turn sysT (cmd 5 0 [7, 0]) 5 sess0 ∧ Turn sysT (cmd 6 0 [1023, 0, 5, 6]) 6 sess0 ∧ Turn sysT (cmd 7 0 [1023, 1]) 7 sess0 :=
  ⟨turn_of _ _ _ _ rfl rfl rfl rfl rfl, turn_of _ _ _ _ rfl rfl rfl rfl rfl, turn_of _ _ _ _ rfl rfl rfl rfl rfl, by decide, rfl,
    by decide, rfl, rfl, turn_of _ _ _ _ rfl rfl rfl rfl rfl, turn_of _ _ _ _ rfl rfl rfl rfl rfl, turn_of _ _ _ _ rfl rfl rfl rfl rfl,
    turn_of _ _ _ _ rfl rfl rfl rfl rfl, turn_of _ _ _ _ rfl rfl rfl rfl rfl, turn_of _ _ _ _ rfl rfl rfl rfl rfl⟩
/-- A change that waits for its core, which is free; a declaration that waits for its rows. -/
def pc0 : PartChange := ⟨cmd 2 0 [5, 0], 5, 0⟩
theorem wit_TableCommands_effective : ({ sysT with partPend := [pc0] } : State).partPend.find? (fun q => q.core == 5) = some pc0 ∧
    sysT.block? 5 = none ∧ PMap.get? sysT.sessions pc0.cmd.sess = some sess0 ∧ HarbourIdle { sysT with partPend := [pc0] } ∧
    HarbourIdle { sysT with freePend := [cmd 4 0 [0, 1, 1, 0]] } := ⟨by decide, rfl, rfl, idle_of _ rfl, idle_of _ rfl⟩
theorem wit_GroupAndContextCommands : Turn sysT (cmd 8 4 [0x3F0FFF, 0x4000040, 0, 0]) 8 sess0 ∧
    Turn sysT (cmd 9 4 [1, 0]) 9 sess0 ∧ Turn sysT (cmd 12 255 (List.replicate 12 1)) 12 sess0 ∧ Turn sysT (cmd 13 4 [0, 0]) 13 sess0 ∧
    PMap.get? sysT.ctxs 4 ≠ none ∧ PMap.get? sysT.ctxs 255 = none ∧
    PMap.get? ({ sysT with groups := [(1, { grp0 with ctx := 4, ready := false, cmd := cmd 8 4 [] })] } : State).groups 1 =
      some { grp0 with ctx := 4, ready := false, cmd := cmd 8 4 [] } ∧
    PMap.get? ({ sysT with groups := [(1, { grp0 with ctx := 4 })], teams := [(0, { tmA with colls := [co0 []] })] } : State).groups 1 =
      some { grp0 with ctx := 4 } ∧ (co0 []).group = 1 ∧ (co0 []).rec_ % 16 = 0 ∧ (∀ p ∈ sysT.teams, ∀ k ∈ p.2.colls, k.group ≠ 1) ∧
    (sysT.launches.filter fun p => p.2.ctx == 4 && p.2.started.isNone).length ≤ 1 ∧ PMap.get? sysT.sessions (cmd 8 4 []).sess = some sess0 :=
  ⟨turn_of _ _ _ _ rfl rfl rfl rfl rfl, turn_of _ _ _ _ rfl rfl rfl rfl rfl, turn_of _ _ _ _ rfl rfl rfl rfl rfl,
    turn_of _ _ _ _ rfl rfl rfl rfl rfl, by decide, rfl, rfl, rfl, rfl, rfl, by decide, by decide, rfl⟩

/-- A context with tables at 0x2000, 0x4000 and 0x6000, whose first GiB is memory's, and a kernel record at 0x10000. -/
def memL : List Host.Cell :=
  [(0x2000, 1), (0x2001, 0x40), (0x4000, 1), (0x4001, 0x60), (0x6000, 0x5F), (0x10005, 1), (0x10018, 0x40), (0x1001A, 4), (0x1001C, 0x20), (0x1001D, 0x86)]
def packet (gen : Word) (ps : List Word) : List Word :=
  [0x10000, 0, 7, 0, gen, 0x8620, 0x40040, BitVec.ofNat 32 (1 + 65536 * ps.length), 3, 0, 10, 0] ++ ps ++
    List.replicate (ps.length % 2) 0
def sysV : State :=
  { sysS with mem := memL, ctxs := [(4, ⟨0x2000, 0, 0, 0, 1, 100, 0⟩)], part := [(0, 0x8004)] }
def Vet.arms : Vet → Bool
  | .arm _ => true
  | _ => false
theorem arms_of (x : State × Vet) (h : Vet.arms x.2 = true) : ∃ s1 l, x = (s1, .arm l) := by
  obtain ⟨s1, v⟩ := x
  cases v with
  | arm l => exact ⟨s1, l, rfl⟩
  | refuse _ => cases h
  | wait => cases h
theorem wit_LaunchMessages : Turn sysV (cmd 1 4 (packet 1 [0x40000])) 1 sess0 ∧ (parsePacket (packet 1 [0x40000])).isSome = true ∧
    (∃ p own, parsePacket (cmdWords (cmd 1 4 (packet 1 [0x40000]))) = some p ∧ p.parties = [own] ∧ own = (0, 4) ∧
      ∃ s1 l, sysV.vet p 4 0 2 (cmd 1 4 (packet 1 [0x40000])).hdr = (s1, .arm l)) ∧
    parsePacket (packet 1 [0x42000]) = none ∧ staleGen 0 0x80000000 = true ∧ staleGen 0x7FFFFFFF 0x80000000 = true ∧
    sysV.allotted 0 4 = true ∧ (∀ n, n < 192 → ({ sysV with part := [] } : State).allotted n 4 = false) :=
  ⟨turn_of _ _ _ _ rfl rfl rfl rfl (by decide +kernel), by decide +kernel,
    ⟨_, _, rfl, rfl, rfl, arms_of _ (by decide +kernel)⟩, by decide +kernel, by decide, by decide, by decide +kernel, by decide +kernel⟩
/-- The same packet of a root on device 1, whose rank 1 is this device. -/
theorem wit_LaunchMessages_forward : HarbourIdle sysV ∧ sysV.ready = true ∧ ∃ p, parsePacket (packet 1 [1, 0x40000]) = some p ∧ p.parties[1]? = some (0, 4) ∧
    (∀ r o, p.parties[r]? = some o → o.1 = 0 → r = 1) ∧ ∃ s1 l, sysV.vet p 4 1 0 ⟨0, 0, 0, 0, 0⟩ = (s1, .arm l) := by
  refine ⟨idle_of _ rfl, rfl, _, rfl, rfl, fun r o h h0 => ?_, arms_of _ (by decide +kernel)⟩
  match r with
  | 0 => cases h; cases h0
  | 1 => rfl
  | n + 2 => exact nomatch (show none = some o from h)
/-- A launch of two participants at the root, armed here alone; the same armed as rank 1, and started. -/
def launchR (rank : Nat) (o : Option Nat) : Launch :=
  ⟨4, 1, rank, [(0, 4), (1, 5)], 2, ⟨1, 4, 56, 6, 0⟩, wordKernel, 5, 1, 1, 3, 0, 10, [0], o, [], 0, 0, [0], 0, false, 0⟩
def sysA (rank : Nat) (o : Option Nat) (n : Nat) : State := { sysV with launches := [(1, launchR rank o)], cycle := n, grid := [(gridKey 1 7, ⟨.grid, 2, 1, 0⟩)] }
theorem wit_LaunchMessages_late : HarbourIdle (sysA 0 none 200000000) ∧
    (sysA 0 none 200000000).launches.find? (fun p => (p.2.rank == 0) == true && p.2.started.isNone && p.2.ctx == 4 && p.2.gen == 1) =
      some (1, launchR 0 none) ∧ PMap.get? (sysA 0 none 200000000).sessions (launchR 0 none).sess = some sess0 ∧
    (launchR 0 none).rankOf 1 = some 1 := ⟨idle_of _ rfl, by decide +kernel⟩
theorem wit_LaunchMessages_armed : HarbourIdle (sysA 0 none 0) ∧
    (sysA 0 none 0).launches.find? (fun p => (p.2.rank == 0) == true && p.2.started.isNone && p.2.ctx == 4 && p.2.gen == 1) =
      some (1, launchR 0 none) ∧
    (sysA 0 (some 1) 0).launches.find?
      (fun p => p.2.rank == 0 && p.2.started.isSome && p.2.ctx == 4 && p.2.gen == 1 && p.2.awaits 1) = some (1, launchR 0 (some 1)) ∧
    (launchR 0 (some 1)).rankOf 1 = some 1 ∧ (([0, 0, 0, 0, 0, 0, 0, 0, 0x40001] : List Word).getD 8 0).toNat % 2 ^ 13 = 1 ∧
    (sysA 0 none 0).launches.find? (fun p => p.2.ctx == 4 && p.2.gen == 1 && !p.2.dead) = some (1, launchR 0 none) ∧
    PMap.get? (sysA 0 none 0).sessions (launchR 0 none).sess = some sess0 ∧ (launchR 0 none).rankOf 1 = some 1 ∧
    1 ∉ (launchR 0 none).armedBy ∧ (∀ q, q < 2 → q ≠ 1 → q ∈ (launchR 0 none).armedBy) ∧ (launchR 0 none).ownBlocks ≠ [] ∧
    (sysA 0 none 0).cycle < (launchR 0 none).armedAt + (sysA 0 none 0).startTimeout * Config.cyclesPerMs ∧
    (launchR 0 none).armedAt + (sysA 0 none 200000000).startTimeout * Config.cyclesPerMs ≤ (sysA 0 none 200000000).cycle ∧
    (sysA 1 none 0).launches.find? (fun p => (p.2.rank == 0) == false && p.2.started.isNone && p.2.ctx == 4 && p.2.gen == 1) =
      some (1, launchR 1 none) ∧
    (launchR 1 none).ownBlocks ≠ [] ∧ 1 ∉ (launchR 0 (some 1)).endedBy ∧ PMap.get? (sysA 0 none 0).grid (gridKey 1 7) = some ⟨.grid, 2, 1, 0⟩ :=
  ⟨idle_of _ rfl, by decide +kernel⟩

/-! Hypotheses met: the machine as a whole. -/

theorem wit_StepKeepsMemory : MemWf State.reset ∧ Goes { State.reset with sched := [.event .deviceReady] } { State.reset with ready := true } :=
  ⟨rfl, rfl⟩
theorem wit_DecodeEncode : (Instr.add ⟨.v 2, .v 0, .zero, false, true, true⟩).legal = true ∧
    encode (.add ⟨.v 2, .v 0, .zero, false, true, true⟩) = [0x00203F03] ∧
    decode 0x00203F03 = .ok (.add ⟨.v 2, .v 0, .zero, false, true, true⟩) := ⟨rfl, rfl, rfl⟩
/-- A team, and a sequencer, that stand at a word, with the move theirs. -/
def sysStep (i : Instr) : State := State.reset.placeWord ((encode i).headD 0)
theorem wit_StepRunsTheWord : (sysStep (.yield false)).sched = [.team 0 0] ∧
    (∃ tm, (sysStep (.yield false)).team? 0 0 = some tm ∧ tm.status = .live ∧ (sysStep (.yield false)).replayingAny 0 0 = false ∧ tm.ending = false ∧ tm.left.cause = .none ∧ (sysStep (.yield false)).phaseStop 0 tm ≠ some tm.pc ∧
      tm.pc.toNat % 4 = 0 ∧ tm.pc.toNat < 2 ^ 56) ∧
    PMap.get? ((sysStep (.yield false)).core 0).dps (0 % 4) = some ⟨some 0, none, 0⟩ ∧ ((sysStep (.yield false)).core 0).slot ≤ 4 * (sysStep (.yield false)).cycle + 0 % 4 ∧
    ((({ sysStep (.yield false) with sched := [], cur := ⟨0, 0⟩ } : State).modCore 0 fun x => { x with slot := 4 * 0 + 0 % 4 + 1 }).homeRead 0
      (0x10000 / 64)).poisoned (0x10000 / 64) = false ∧
    ((sysStep (.bfw 5 true)).homeRead 0 (0x10000 / 64)).poisoned (0x10000 / 64) = false ∧
    (sysStep (.yield false)).tlbHit 0 0 0x10000 = some leaf0 ∧
    ((sysStep (.yield false)).leafAccess leaf0 0x10000 .fetch false).toOption = some 0x10000 ∧
    (sysStep (.yield false)).route 0x10000 = .local_ 0x10000 ∧ (sysStep (.bfw 5 true)).sched = [.seq 0] ∧
    (∃ b, (sysStep (.bfw 5 true)).block? 0 = some b ∧ b.seq.ended = false ∧ b.seq.last = false ∧ b.seq.trap = none ∧ b.stopping = false) :=
  ⟨by decide +kernel, ⟨_, rfl, rfl, by decide +kernel, rfl, rfl, by decide +kernel, by decide +kernel⟩, by decide +kernel, by decide +kernel, by decide +kernel,
    by decide +kernel, by decide +kernel,
    by decide +kernel, by decide +kernel, by decide +kernel, ⟨_, rfl, rfl, rfl, rfl, rfl⟩⟩
theorem wit_DecodeLosesNothing : decode 0xB4000070 = .ok (.trap 7 false) ∧ encode (.trap 7 false) = [0xB4000070] := ⟨rfl, rfl⟩

/-! Words of the spec's own tables of encodings, field by field. -/

/-- Table 3.13: `divu v3, v3, s3`, `add v4, v4, 1`, `cmp.eq k1, v3, zero`, `refill k1, loop !`, `shl e0, v1, 2`,
`adv.cache stream`. -/
theorem test_decodeTable313 :
    decode 0b000001_000011_000011_110011_00101_0_0_0#32 = .ok (.divu ⟨.v 3, .v 3, .s 3, false, false, false⟩) ∧
    decode 0b001000_000100_000100_000000000001_0_0#32 = .ok (.addImm ⟨.v 4, .v 4, 1, false, false⟩) ∧
    decode 0b000011_000_001_000011_111111_00000_0_0_0#32 = .ok (.cmp 1 .eq (.v 3) .zero false false) ∧
    decode 0b101010_111111111111111111101_001_0_1#32 = .ok (.refill ⟨2097149, 1, false⟩) ∧
    decode 0b001100_111111_000001_0000000_00010_1_0#32 = .ok (.shlImm ⟨.zero, .v 1, 2, true, false⟩) ∧
    decode 0b111111_0011000000000000000000_001_0#32 = .ok (.advCache .stream) :=
  ⟨rfl, rfl, rfl, rfl, rfl, rfl⟩

/-- Table 8.4: `ld.w v3, [v2], ac0`, `ldc.d v4, [s1 + 8], ac2`, `gath.w v5, [s2], v1, ac3`, `acnt ac0, 0`, `wait ac0,
1 !`, `waitall !`, `ldp.w v1, [v2 + 8]`, `stp.q [v8], v4`. -/
theorem test_decodeLoadsAndCounters :
    decode 0b011010_000011_000010_0000_00000000_0_0#32 = .ok (.ldW ⟨.v 3, .v 2, 0, 0, false⟩) ∧
    decode 0b011011_000100_110001_0010_00000001_1_0#32 = .ok (.ldcD ⟨.v 4, .s 1, 2, 1, false⟩) ∧
    decode 0b011111_000101_110010_000001_0_0011_00_0#32 = .ok (.gathW ⟨.v 5, .s 2, .v 1, 3, false⟩) ∧
    decode 0b101110_01_0000_000000_000000000000_0_0#32 = .ok (.acnt 0 0 false) ∧
    decode 0b101110_00_0000_000000_000000000001_01#32 = .ok (.wait 0 1) ∧
    decode 0b101110_10000000000000000000000001#32 = .ok (.waitall) ∧
    decode 0b011101_000001_000010_0010_00000010_0_0#32 = .ok (.ldp ⟨.v 1, .v 2, .w, 2, false⟩) ∧
    decode 0b011110_000100_001000_0100_00000000_0_0#32 = .ok (.stp ⟨.v 4, .v 8, .q, 0, false⟩) :=
  ⟨rfl, rfl, rfl, rfl, rfl, rfl, rfl, rfl⟩

/-- Table 9.2: `tcopy s4`, `tgath s0 !`, `tscat s0`, `tfill s4`, `pres k1, v2`, `sgjoin s2`, `sgleave`, `sgmap s3`. -/
theorem test_decodeCopies :
    decode 0b100111_000000_110100_0000000000000_0#32 = .ok (.tcopy (.s 4) false) ∧
    decode 0b100111_000000_110000_0000000000100_1#32 = .ok (.tgath (.s 0) true) ∧
    decode 0b100111_000000_110000_0000000001000_0#32 = .ok (.tscat (.s 0) false) ∧
    decode 0b100111_000000_110100_0000000001100_0#32 = .ok (.tfill (.s 4) false) ∧
    decode 0b100111_000_001_000010_0000000010000_0#32 = .ok (.pres 1 (.v 2) false) ∧
    decode 0b100111_000000_110010_0000000100000_0#32 = .ok (.sgjoin (.s 2) false) ∧
    decode 0b100111_0000000000000000000100100_0#32 = .ok (.sgleave false) ∧
    decode 0b100111_000000_110011_0000000101000_0#32 = .ok (.sgmap (.s 3) false) :=
  ⟨rfl, rfl, rfl, rfl, rfl, rfl, rfl, rfl⟩

/-- Table 12.8: `add.p v4, v6, v8`, `div v7, v1, v2`, `sel v3, k5, v1, v2`, `setix v5`, `setix 0`, `cmp.lt k2, v1,
10`, `ffma v4, v1, v2`, `dfma v4, v6, v8`, `cvt.bf16.f32 v5, v3, rz`, `dot4.sh v4, v1, v2, 2`. -/
theorem test_decodeArithmetic :
    decode 0b000000_000100_000110_001000_00000_0_1_0#32 = .ok (.add ⟨.v 4, .v 6, .v 8, false, true, false⟩) ∧
    decode 0b000001_000111_000001_000010_00100_0_0_0#32 = .ok (.div ⟨.v 7, .v 1, .v 2, false, false, false⟩) ∧
    decode 0b000011_000_011_000001_000010_10101_0_0_0#32 = .ok (.sel ⟨.v 3, .v 1, .v 2, false, false, false⟩ 5) ∧
    decode 0b000101_000000_000101_0000000000100_0#32 = .ok (.setix (.v 5) false) ∧
    decode 0b001101_000000000001000_000000000_0_0#32 = .ok (.setixImm 0 false) ∧
    decode 0b001111_010_010_000001_000000001010_0_0#32 = .ok (.cmpImm 2 2 (.v 1) 10 false) ∧
    decode 0b010000_000100_000001_000010_00011_0_0_0#32 = .ok (.ffma ⟨.v 4, .v 1, .v 2, false, false⟩) ∧
    decode 0b010001_000100_000110_001000_00011_0_1_0#32 = .ok (.dfma ⟨.v 4, .v 6, .v 8, false, false⟩) ∧
    decode 0b010011_000101_000011_000_001_00001_0_0_0#32 = .ok (.cvt ⟨.v 5, .v 3, false, false⟩ .bf16f32 .rz) ∧
    decode 0b010100_000100_000001_000010_000_10_0_0_0#32 = .ok (.dot4Sh ⟨.v 4, .v 1, .v 2, false, false⟩ 2) :=
  ⟨rfl, rfl, rfl, rfl, rfl, rfl, rfl, rfl, rfl, rfl⟩

/-- Table 13.5 and Table 13.8: `rcp v2, v1`, `ex2 v5, v4`, `cospi v4, v3`, `sinpi e3, v3`, `lpick.mir v4, v3, s1`,
`qswp.h v5, v2`, `poll.any k2, k1`, `poll.mask v7, k1`, `poll.cnt v7, k1`, `red.add v3, v2`, `segred.fadd v6, v5, k3`,
`scan.add v4, v2`, `wred.max v8, v1`. -/
theorem test_decodeSfuAndCrossLane :
    decode 0b010110_000010_000001_00000000000_0_0_0#32 = .ok (.rcp ⟨.v 2, .v 1, false, false⟩) ∧
    decode 0b010110_000101_000100_00000000011_0_0_0#32 = .ok (.ex2 ⟨.v 5, .v 4, false, false⟩) ∧
    decode 0b010110_000100_000011_00000000110_0_0_0#32 = .ok (.cospi ⟨.v 4, .v 3, false, false⟩) ∧
    decode 0b010110_111111_000011_00000000101_1_0_0#32 = .ok (.sinpi ⟨.zero, .v 3, true, false⟩) ∧
    decode 0b010111_000100_000011_110001_00011_0_0_0#32 = .ok (.lpickMir ⟨.v 4, .v 3, .s 1, false, false⟩) ∧
    decode 0b010111_000101_000010_00000000100_0_0_0#32 = .ok (.qswpH ⟨.v 5, .v 2, false, false⟩) ∧
    decode 0b010111_000_010_000_001_0000000011100_0#32 = .ok (.pollAny ⟨2, 1, false⟩) ∧
    decode 0b010111_000111_000_001_00000001001_0_0_0#32 = .ok (.pollMask ⟨.v 7, 1, false, false⟩) ∧
    decode 0b010111_000111_000_001_00000001110_0_0_0#32 = .ok (.pollCnt ⟨.v 7, 1, false, false⟩) ∧
    decode 0b010111_000011_000010_000_000_01010_0_0_0#32 = .ok (.red ⟨.v 3, .v 2, .add, false, false⟩) ∧
    decode 0b010111_000110_000101_011_101_01011_0_0_0#32 = .ok (.segred ⟨.v 6, .v 5, .fadd, false, false⟩ 3) ∧
    decode 0b010111_000100_000010_000_000_01100_0_0_0#32 = .ok (.scan ⟨.v 4, .v 2, .add, false, false⟩) ∧
    decode 0b010111_001000_000001_000_010_01101_0_0_0#32 = .ok (.wred ⟨.v 8, .v 1, .max, false, false⟩) :=
  ⟨rfl, rfl, rfl, rfl, rfl, rfl, rfl, rfl, rfl, rfl, rfl, rfl, rfl⟩

/-- Table 14.15: `bfw m8`, `bfs.shelf8.bf16 m12, m4, 3, rz`, `bfch.bf16.f32 m12, m4, 4 !`, `bfp 2`, `bft.bf16.acc m12,
m4, m10`, `mloop lc0, m2, tail`, `msetsd sd0, m6`, `mbar nb0`, `mwait nb1`, `mcopy.sa m2, m3, m4`, `madd m5, m5, 1`,
`mli m4, 0x100`. -/
theorem test_decodeMatrix :
    decode 0b110000_000000_001000_0000000000000_0#32 = .ok (.bfw 8 false) ∧
    decode 0b110001_001100_000100_00_0011_10_01_001_0#32 = .ok (.bfs ⟨12, 4, 3, .shelf8, .bf16, .rz, false⟩) ∧
    decode 0b110010_001100_000100_000100_00_00_000_1#32 = .ok (.bfch ⟨12, 4, 4, .bf16, .f32, .rn, true⟩) ∧
    decode 0b110011_000000000000_000001_0000000_0#32 = .ok (.bfp 1 false) ∧
    decode 0b110100_001100_000100_001010_00_00_000_0#32 = .ok (.bft 12 4 10 .bf16 false false) ∧
    decode 0b110110_0000_00_000010_000000_000_0010_0#32 = .ok (.mloop 0 2 2 false) ∧
    decode 0b110110_000_000_000110_0000000100000_0#32 = .ok (.msetsd 0 6 false) ∧
    decode 0b110110_000000_000000_0000000110000_0#32 = .ok (.mbar 0 false) ∧
    decode 0b110110_000000_000001_0000001000000_0#32 = .ok (.mwait 1 false) ∧
    decode 0b110110_000010_000011_000100_10100_00_0#32 = .ok (.mcopy 2 3 4 .sa false) ∧
    decode 0b110111_000101_000101_000001_000000_1_0#32 = .ok (.madd ⟨5, 5, 1, true, false⟩) ∧
    decode 0b110111_000100_000100000000_1010100_0#32 = .ok (.mli 4 256 false) :=
  ⟨rfl, rfl, rfl, rfl, rfl, rfl, rfl, rfl, rfl, rfl, rfl, rfl⟩

/-- Table 15.8: `sscan.bf16.f32 m12, m0, m14, 16 !`. -/
theorem test_decodeStateSpace :
    decode 0b110101_001100_000000_001110_00_00_00_0_1#32 = .ok (.sscan 12 0 14 false .f32 0 true) :=
  rfl

/-- Table 16.3 and Table 16.5 and Table 16.6 and Table 16.8: `st.w [v6], v4 !`, `st.b [v5], v6`, `st.d [s1 + 16], v4`,
`st.q [v8], v4`, `adv.scope domain, release`, `atom.add v5, [v2], v3`, `ared.add [v2], v3`, `fence.core`, `coll.add
s0`, `coll.max s2`. -/
theorem test_decodeStoresAtomics :
    decode 0b100010_000100_000110_0000_00000000_0_1#32 = .ok (.stW ⟨.v 4, .v 6, 0, false, true⟩) ∧
    decode 0b100000_000110_000101_0000_00000000_0_0#32 = .ok (.stB ⟨.v 6, .v 5, 0, false, false⟩) ∧
    decode 0b100011_000100_110001_0000_00000010_0_0#32 = .ok (.stD ⟨.v 4, .s 1, 2, false, false⟩) ∧
    decode 0b100100_000100_001000_0000_00000000_0_0#32 = .ok (.stQ ⟨.v 4, .v 8, 0, false, false⟩) ∧
    decode 0b111111_00100000000000000000_10_011_0#32 = .ok (.advScope .domain .release) ∧
    decode 0b100101_000101_000010_000011_00_000_0_0_0#32 = .ok (.atom ⟨.v 5, .v 2, .v 3, false, false, false⟩ .add) ∧
    decode 0b100101_000000_000010_000011_01_000_0_0_0#32 = .ok (.ared (.v 2) (.v 3) .add false false) ∧
    decode 0b100110_000_000_0000000000000000100_0#32 = .ok (.fence .core false) ∧
    decode 0b100110_000000_110000_0000000001000_0#32 = .ok (.collAdd (.s 0) false) ∧
    decode 0b100110_000000_110010_0000000010000_0#32 = .ok (.collMax (.s 2) false) :=
  ⟨rfl, rfl, rfl, rfl, rfl, rfl, rfl, rfl, rfl, rfl⟩

/-- Table 18.5: `bra done !`, `call fn !`, `rcv join`, `brk k3, skip !`, `ret !`, `brx v5, 0x9C !`, `callx v7, 5 !`,
`lpad 0x9C`, `exit !`. -/
theorem test_decodeControl :
    decode 0b101000_000000000000000000101_000_0_1#32 = .ok (.bra 5 false) ∧
    decode 0b101000_000000000000000101000_001_0_1#32 = .ok (.call 40 false) ∧
    decode 0b101000_000000000000000000100_010_0_0#32 = .ok (.rcv 4 false false) ∧
    decode 0b101001_000000000000000000011_011_0_1#32 = .ok (.brk ⟨3, 3, false⟩) ∧
    decode 0b101011_00000000000000000000000001#32 = .ok (.ret) ∧
    decode 0b101011_000000_000101_011100_00001_10_1#32 = .ok (.brx ⟨.v 5, 156⟩) ∧
    decode 0b101011_000000_000111_000101_00010_00_1#32 = .ok (.callx ⟨.v 7, 5⟩) ∧
    decode 0b101011_000000000000_011100_00011_10_0#32 = .ok (.lpad 156 false) ∧
    decode 0b101011_00000000000000000000100001#32 = .ok (.exit) :=
  ⟨rfl, rfl, rfl, rfl, rfl, rfl, rfl, rfl, rfl⟩

/-- Table 19.5: `bar.arr nb2`, `bar.wait nb2 !`, `bar.sync nb0 !`, `yield !`, `heart v3`. -/
theorem test_decodeBarriers :
    decode 0b101100_000000000000000000_000010_0_0#32 = .ok (.barArr 2 false) ∧
    decode 0b101100_000001000000000000_000010_01#32 = .ok (.barWait 2) ∧
    decode 0b101100_000010000000000000_000000_0_1#32 = .ok (.barSync 0 true) ∧
    decode 0b101100_0000110000000000000000000_1#32 = .ok (.yield true) ∧
    decode 0b101100_000100_000011_0000000000000_0#32 = .ok (.heart (.v 3) false) :=
  ⟨rfl, rfl, rfl, rfl, rfl⟩

/-- Table 20.8: `trap 7`, `tret !`, `skip`, `kill`, `sysr v1, laneid`, `sysw addrhi, v3`. -/
theorem test_decodeSystem :
    decode 0b101101_000000000000_0000000111_000_0#32 = .ok (.trap 7 false) ∧
    decode 0b101101_0000000000000000000000001_1#32 = .ok (.tret true) ∧
    decode 0b101101_0000000000000000000000010_0#32 = .ok (.skip false) ∧
    decode 0b101101_0000000000000000000000011_0#32 = .ok (.kill false) ∧
    decode 0b101101_000001_000000_0000000000_100_0#32 = .ok (.sysr (.v 1) 0 false) ∧
    decode 0b101101_000000_000011_0000001001_101_0#32 = .ok (.sysw (.v 3) 9 false) :=
  ⟨rfl, rfl, rfl, rfl, rfl, rfl⟩

theorem wit_FormsComplete : (Ready (sys tmA) 0 0 tmA (.hadd2 fB) false .no [src1 fB.a, src1 fB.b, dstP fB.d false] ∧
      Ready (sys tmA) 0 0 tmA (.maxe fB) false .no [src1 fB.a, src1 fB.b, dstP fB.d false]) ∧
    (Ready (sys tmA) 0 0 tmA (.bfma2 fB) false .no [src1 fB.a, src1 fB.b, src1 fB.d, dstP fB.d false]) ∧
    (Ready (sys tmA) 0 0 tmA (.dot4Sh ⟨.v 2, .v 0, .v 46, false, false⟩ 3) false .no [src1 (.v 0), src1 (.v 46), boundN (.v 46) 2, src1 (.v 2), dstP (.v 2) false] ∧
      (let src (_ : Team) (l : Nat) := [(scaleOpd (.v 46), 32 * (l / 32) + 8 * (l % 32 / 8))]
       tmA.crossLock src = [] ∧ tmA.crossLate src = none ∧ tmA.crossUpset src = [] ∧ tmA.crossBad src = [])) ∧
    Ready (sys tmA) 0 0 tmA (.heart (.s 0) true) true .no [srcOnce (.s 0)] ∧
    PMap.wf (sys tmA).l2 = true :=
  ⟨⟨ready_of _ _ _ _ _ (by decide +kernel), ready_of _ _ _ _ _ (by decide +kernel)⟩, ready_of _ _ _ _ _ (by decide +kernel),
    ⟨ready_of _ _ _ _ _ (by decide +kernel), by decide +kernel⟩, ready_of _ _ _ _ _ (by decide +kernel), by decide +kernel⟩

/-! Operand values that are refused: an ill-formed word for each check of WellFormed. -/

theorem test_legal_destination : (Instr.add ⟨.e 0, .v 0, .v 1, false, false, false⟩).legal = false ∧
    (Instr.add ⟨.v 2, .v 0, .v 1, true, false, false⟩).legal = false ∧ (Instr.addImm ⟨.v 2, .v 0, 1, true, false⟩).legal = false ∧
    (Instr.shlImm ⟨.e 1, .v 0, 1, false, false⟩).legal = false ∧ (Instr.sel ⟨.e 1, .v 0, .v 1, false, false, false⟩ 0).legal = false ∧
    (Instr.mov ⟨.v 2, .v 0, true, false, false⟩).legal = false ∧ (Instr.movi (.e 7) 1 false false).legal = false ∧
    (Instr.lea (.v 1) 0 true false).legal = false ∧ (Instr.ffma ⟨.e 0, .v 0, .v 1, false, false⟩).legal = false ∧
    (Instr.rcp ⟨.v 1, .v 0, true, false⟩).legal = false ∧ (Instr.pollCnt ⟨.e 0, 0, false, false⟩).legal = false ∧
    (Instr.scan ⟨.v 2, .v 0, .add, true, false⟩).legal = false ∧ (Instr.segred ⟨.e 0, .v 0, .add, false, false⟩ 0).legal = false ∧
    (Instr.ldW ⟨.e 0, .v 0, 0, 0, false⟩).legal = false ∧ (Instr.gathD ⟨.e 0, .v 0, .v 1, 0, false⟩).legal = false ∧
    (Instr.ldp ⟨.e 0, .v 0, .w, 0, false⟩).legal = false ∧ (Instr.sysr (.e 0) 0 false).legal = false := by decide
theorem test_legal_operands : (Instr.cvt ⟨.v 1, .v 0, false, false⟩ .f32f16 .rz).legal = false ∧
    (Instr.dot4Sh ⟨.v 1, .v 0, .v 47, false, false⟩ 0).legal = false ∧ (Instr.dot4Sh ⟨.v 1, .v 0, .zero, false, false⟩ 0).legal = false ∧
    (Instr.stp ⟨.e 0, .v 0, .q, 0, false⟩).legal = true ∧ (Instr.stp ⟨.e 0, .v 0, .w, 0, false⟩).legal = true ∧
    (Instr.stQ ⟨.e 0, .v 0, 0, false, false⟩).legal = false ∧ (Instr.atom ⟨.s 0, .v 0, .v 1, false, false, false⟩ .add).legal = false ∧
    (Instr.atom ⟨.zero, .v 0, .v 1, true, false, false⟩ .add).legal = false ∧ (Instr.cas128 (.s 0) (.v 0) (.v 4) false).legal = false ∧
    (Instr.cas128 (.v 0) (.v 4) (.e 0) false).legal = false ∧ (Instr.collAdd (.v 0) false).legal = false ∧
    (Instr.tcopy .zero false).legal = false ∧ (Instr.sgjoin (.e 0) false).legal = false ∧ (Instr.sysr (.v 0) 16 false).legal = false ∧
    (Instr.sysw (.v 0) 50 false).legal = false := by decide
theorem test_legal_matrix : (Instr.bfs ⟨0, 29, 0, .bf16, .f32, .rn, false⟩).legal = false ∧
    (Instr.bfs ⟨0, 0, 16, .bf16, .f32, .rn, false⟩).legal = false ∧ (Instr.bfch ⟨0, 0, 0, .bf16, .f32, .rn, false⟩).legal = false ∧
    (Instr.bfch ⟨0, 0, 13, .bf16, .f32, .rn, false⟩).legal = false ∧ (Instr.bft 31 0 0 .bf16 false false).legal = false ∧
    (Instr.bft 0 29 0 .bf16 false false).legal = false ∧ (Instr.sscan 0 25 0 false .f32 0 false).legal = false ∧
    (Instr.sscan 31 0 0 false .f32 0 false).legal = false ∧ (Instr.sscan 0 0 0 false .acc 0 false).legal = false ∧
    (Instr.mloop 0 0 0 false).legal = false ∧ (Instr.mmov 0 32 .m false).legal = false ∧ (Instr.mmov 0 8 .sd false).legal = false ∧
    (Instr.mmov 0 4 .lc false).legal = false ∧ (Instr.mmov 0 2 .eng false).legal = false ∧
    (Instr.madd ⟨0, 0, 32, false, false⟩).legal = false := by decide

/-! Words executed: the spec's worked examples. -/

/-- A lane register after one word of the small machine. -/
def laneAfter (i : Instr) (tm : Team) (l r : Nat) : Option Word :=
  match exec i (sys tm) with
  | .next s => (s.team? 0 0).map fun t => (t.laneHeld l r).val
  | _ => none
/-- A team of four lanes with two registers each. -/
def tmV (a b : List Word) : Team :=
  { tmA with v := ((List.range 4).zip (a.zip b)).flatMap fun p => [(1024 * p.1, ⟨p.2.1, false⟩), (1024 * p.1 + 1, ⟨p.2.2, false⟩)] }
/-- Lanes 1 to 4 of Table 12.5. -/
def tmDiv : Team := tmV [0xFFFFFFF9, 5, 0x80000000, 0xFFFFFFF7] [2, 0, 0xFFFFFFFF, 0]
def fD : ABW := ⟨.v 2, .v 0, .v 1, false, false, false⟩
def lanes4 (i : Instr) (tm : Team) : List (Option Word) := (List.range 4).map fun l => laneAfter i tm l 2

/-- Table 12.5. -/
theorem test_div : lanes4 (.div fD) tmDiv = [some 0xFFFFFFFD, some 0xFFFFFFFF, some 0x80000000, some 1] := by decide +kernel
theorem test_rem : lanes4 (.rem fD) tmDiv = [some 0xFFFFFFFF, some 5, some 0, some 0xFFFFFFF7] := by decide +kernel
theorem test_divu : lanes4 (.divu fD) tmDiv = [some 0x7FFFFFFC, some 0xFFFFFFFF, some 0, some 0xFFFFFFFF] := by decide +kernel
theorem test_remu : lanes4 (.remu fD) tmDiv = [some 1, some 5, some 0x80000000, some 0xFFFFFFF7] := by decide +kernel
/-- Table 12.7: 12.0, 0.75, -40.0 and a NaN. -/
theorem test_maxe : lanes4 (.maxe fB) (tmV [0x41400000, 0x3F400000, 0xC2200000, 0x7FC00001] [0x80000000, 3, 3, 5]) =
    [some 3, some 3, some 5, some 0x7FFFFFFF] := by decide +kernel
theorem test_scalee : lanes4 (.scalee fB) (tmV [0x41400000, 0x40A00000, 0x3F800000, 0] [0xFFFFFFFB, 0xFFFFFF6A, 200, 1]) =
    [some 0x3EC00000, some 2, some 0x7F800000, some 0] := by decide +kernel
/-- Table 12.7 under ADV.RND: to odd, and toward zero. -/
theorem test_scalee_rounding :
    laneAfter (.scalee fB) { tmV [0x40A00000] [0xFFFFFF6A] with advs := [.rnd .ro], advPc := 0xFFFC, words := 1 } 0 2 = some 3 ∧
    laneAfter (.scalee fB) { tmV [0x3F800000] [200] with advs := [.rnd .rz], advPc := 0xFFFC, words := 1 } 0 2 = some 0x7F7FFFFF := by
  decide +kernel
/-- Table 13.3: the cosine of 0, a quarter, a half and three quarters of pi. -/
theorem test_cospi : lanes4 (.cospi ⟨.v 2, .v 0, false, false⟩) (tmV [0, 0x3E800000, 0x3F000000, 0x3F400000] [0, 0, 0, 0]) =
    [some 0x3F800000, some 0x3F3504F3, some 0, some 0xBF3504F3] := by decide +kernel
/-- Table 13.7: lanes 0 to 5 and 7 of eight run the words. -/
def tmRed : Team :=
  { tmA with
    size := 8, act := 0xBF, k := [(34, true)],
    v := ((List.range 8).zip [0x4B800000, 0x3F800000, 0x3F800000, 0xCB800000, 0x40400000, 0x40A00000, 0x3F000000, 0x40000000]).map
      fun (p : Nat × Word) => (1024 * p.1, ⟨p.2, false⟩) }
theorem test_red : laneAfter (.red ⟨.v 2, .v 0, .fadd, false, false⟩) tmRed 7 2 = some 0x41300000 := by decide +kernel
theorem test_segred : laneAfter (.segred ⟨.v 2, .v 0, .fadd, false, false⟩ 2) tmRed 0 2 = some 0x3F800000 ∧
    laneAfter (.segred ⟨.v 2, .v 0, .fadd, false, false⟩ 2) tmRed 7 2 = some 0x41200000 := by decide +kernel
theorem test_scan : [0, 2, 3, 5, 7].map (laneAfter (.scan ⟨.v 2, .v 0, .fadd, false, false⟩) tmRed · 2) =
    [some 0x4B800000, some 0x4B800000, some 0x3F800000, some 0x41100000, some 0x41300000] := by decide +kernel
/-- TRAP 7 enters the handler with cause 18 and its code (Table 20.2). -/
theorem test_trap : (match exec (.trap 7 false) (sys tmA) with
    | .next s => (s.team? 0 0).map fun t => (t.pc, t.trapcause, t.p1, t.fpc)
    | _ => none) = some (0x40000, 0x00070012, true, 0x10000) := by decide +kernel
/-- R426: a window LDP of lane 0 that meets an upset word writes nothing; the word that would read its v2 traps at the LDP's PC with
Poisoned Data, cause 8, and so does the boundary after it. -/
theorem test_windowLdp_upset : (match exec (.windowLdpReply 0 0)
      (({ sys { tmA with wld := [⟨1, 1, .lane 2, 4, [(0, 0, 0x10)], [], [], false, 0xFF00, false, []⟩] } with
          blocks := [(0, { Block.initial 0 0 0 0 1 wordKernel none none with upSp := [2] })] } : State)) with
    | .next s => (s.team? 0 0).map fun t => (t.wld.length, t.late.map fun x => (x.pc, x.bad))
    | _ => none) = some (0, [(0xFF00, [(0, 0x80000010)])]) := by decide +kernel
theorem test_windowLdp_trap : ([exec (.mov ⟨.v 1, .v 2, false, false, false⟩) (sys tmLt), exec (.arbitration 0 0) (stIdle tmLt)].map fun o => match o with
    | .next s => (s.team? 0 0).map fun t => (t.pc, t.trapcause, t.fpc, t.flane)
    | _ => none) = [some (0x40000, 8, 0xFF00, 1), some (0x40000, 8, 0xFF00, 1)] := by decide +kernel
/-- A word that is no instruction raises Illegal Instruction: cause 1. -/
theorem test_illegal_word : (match step (State.withFetchWord { sys tmA with ctxs := [] } 32 0x18000000) with
    | .next s => (s.team? 0 0).map fun t => t.status
    | _ => none) = some .killed := by decide +kernel

end Sys2Proof.Tests
end

/-! ## Reductions (R242 to R246) -/

section
namespace Sys2Proof.Machine

/-! The fixed tree against the list of the values at its leaves (R242). -/

/-- The values at the leaves below node (m, i), lower positions first; empty leaves give none. -/
def leafValues (leaf : Nat → Option Word) (m i : Nat) : List Word :=
  (List.range' (2 ^ m * i) (2 ^ m)).filterMap leaf

theorem leafValues_zero (leaf : Nat → Option Word) (i : Nat) : leafValues leaf 0 i = (leaf i).toList := by
  cases h : leaf i <;> simp [leafValues, h]

/-- The leaves below a node are those below its left child, then those below its right one. -/
theorem leafValues_succ (leaf : Nat → Option Word) (m i : Nat) :
    leafValues leaf (m + 1) i = leafValues leaf m (2 * i) ++ leafValues leaf m (2 * i + 1) := by
  have hstart : 2 ^ (m + 1) * i = 2 ^ m * (2 * i) := by ring
  have hmid : 2 ^ m * (2 * i + 1) = 2 ^ m * (2 * i) + 2 ^ m := by ring
  have hlen : 2 ^ (m + 1) = 2 ^ m + 2 ^ m := by ring
  simp only [leafValues]
  rw [hstart, hmid, hlen, ← List.filterMap_append, List.range'_append_1]

/-- A node stands for the values below it: an empty node for none, a node that holds `x` for values that `Q` ties to `x`. -/
def StandsFor (Q : List Word → Word → Prop) (xs : List Word) : Option Word → Prop
  | none => xs = []
  | some x => Q xs x

/-- What holds of a single value and passes to two lists joined holds at every node of the tree. -/
theorem treeNode_standsFor {o : RedOp} {Q : List Word → Word → Prop} (leaf : Nat → Option Word)
    (single : ∀ x, Q [x] x) (join : ∀ xs ys x y, Q xs x → Q ys y → Q (xs ++ ys) (redOp o x y)) (m i : Nat) :
    StandsFor Q (leafValues leaf m i) (treeNode o leaf m i) := by
  induction m generalizing i with
  | zero =>
    rw [leafValues_zero, treeNode]
    cases leaf i with
    | none => rfl
    | some x => exact single x
  | succ m ih =>
    have hl := ih (2 * i)
    have hr := ih (2 * i + 1)
    rw [leafValues_succ, treeNode]
    revert hl hr
    generalize treeNode o leaf m (2 * i) = a
    generalize treeNode o leaf m (2 * i + 1) = b
    intro hl hr
    match a, b with
    | none, none => rw [show leafValues leaf m (2 * i) = [] from hl]; exact hr
    | none, some y => rw [show leafValues leaf m (2 * i) = [] from hl]; exact hr
    | some x, none => rw [show leafValues leaf m (2 * i + 1) = [] from hr, List.append_nil]; exact hl
    | some x, some y => exact join _ _ _ _ hl hr

theorem treeNode_eq_none_iff (o : RedOp) (leaf : Nat → Option Word) (m i : Nat) :
    treeNode o leaf m i = none ↔ leafValues leaf m i = [] := by
  have h := treeNode_standsFor (o := o) (Q := fun xs _ => xs ≠ []) leaf (fun x => List.cons_ne_nil x [])
    (fun xs ys _ _ hx _ => List.append_ne_nil_of_left_ne_nil hx ys) m i
  cases e : treeNode o leaf m i with
  | none => rw [e] at h; exact iff_of_true rfl h
  | some x => rw [e] at h; exact iff_of_false (by simp) h

/-! The tree over a set of lanes. -/

section
variable (t : Team) (a : Opd)

/-- What stands at position `q` before the first level. -/
def laneLeaf (base : Nat) (set : List Nat) (q : Nat) : Option Word :=
  if base + q ∈ set then some (t.read32 (base + q) a) else none

theorem fixedTree_eq (o : RedOp) (m base : Nat) (set : List Nat) :
    fixedTree t o a m base set = treeNode o (laneLeaf t a base set) m 0 := rfl

/-- The model's tree is the fixed tree, an empty one read as 0. -/
theorem Team.tree_eq (o : RedOp) (m base : Nat) (set : List Nat) :
    t.tree o a m base set = (fixedTree t o a m base set).getD 0 := by
  simp only [Team.tree, fixedTree, Team.read32, List.contains_eq_mem, decide_eq_true_eq]

/-- The leaves of the root are the lanes of the set in reach, in ascending order. -/
theorem leafValues_laneLeaf (m base : Nat) (set : List Nat) :
    leafValues (laneLeaf t a base set) m 0 =
      ((List.range' base (2 ^ m)).filter fun l => decide (l ∈ set)).map (t.read32 · a) := by
  have hleaf : laneLeaf t a base set =
      (fun l => if decide (l ∈ set) = true then (some ∘ (t.read32 · a)) l else none) ∘ (base + ·) := by
    funext q
    simp [laneLeaf]
  rw [leafValues, Nat.mul_zero, hleaf, ← List.filterMap_map, List.map_add_range', Nat.add_zero, ← List.filterMap_filter,
    List.filterMap_eq_map]

theorem fixedTree_eq_none_iff (o : RedOp) (m base : Nat) (set : List Nat) :
    fixedTree t o a m base set = none ↔ ∀ l ∈ set, ¬(base ≤ l ∧ l < base + 2 ^ m) := by
  rw [fixedTree_eq, treeNode_eq_none_iff, leafValues_laneLeaf, List.map_eq_nil_iff, List.filter_eq_nil_iff]
  simp only [List.mem_range'_1, decide_eq_true_eq]
  exact ⟨fun h l hl hr => h l hr hl, fun h l hr hl => h l hl hr⟩

/-- Every lane of a set in reach stands at one leaf. -/
theorem leafValues_perm {m base : Nat} {set : List Nat} (hnodup : set.Nodup)
    (hreach : ∀ l ∈ set, base ≤ l ∧ l < base + 2 ^ m) :
    (leafValues (laneLeaf t a base set) m 0).Perm (set.map (t.read32 · a)) := by
  rw [leafValues_laneLeaf]
  refine List.Perm.map _ ((List.perm_ext_iff_of_nodup ((List.nodup_range' (s := base)).filter _) hnodup).mpr fun l => ?_)
  simp only [List.mem_filter, List.mem_range'_1, decide_eq_true_eq]
  exact ⟨fun h => h.2, fun h => ⟨hreach l h, h⟩⟩

/-- The shape of the tree does not matter to what passes to joined lists and does not depend on the order of values. -/
theorem fixedTree_of_set {o : RedOp} {Q : List Word → Word → Prop} {m base : Nat} {set : List Nat}
    (single : ∀ x, Q [x] x) (join : ∀ xs ys x y, Q xs x → Q ys y → Q (xs ++ ys) (redOp o x y))
    (reorder : ∀ xs ys x, xs.Perm ys → Q xs x → Q ys x)
    (hnodup : set.Nodup) (hne : set ≠ []) (hreach : ∀ l ∈ set, base ≤ l ∧ l < base + 2 ^ m) :
    ∃ x, fixedTree t o a m base set = some x ∧ Q (set.map (t.read32 · a)) x := by
  have hstands := treeNode_standsFor (laneLeaf t a base set) single join m 0
  rw [← fixedTree_eq] at hstands
  cases h : fixedTree t o a m base set with
  | none =>
    obtain ⟨l, hl⟩ := List.exists_mem_of_ne_nil set hne
    exact absurd (hreach l hl) ((fixedTree_eq_none_iff t a o m base set).mp h l hl)
  | some x =>
    rw [h] at hstands
    exact ⟨x, rfl, reorder _ _ x (leafValues_perm t a hnodup hreach) hstands⟩

/-! Over integers (R242): the sum, and the least or greatest value. -/

/-- ADD's tree is the sum modulo 2^32. -/
theorem fixedTree_add {m base : Nat} {set : List Nat} (hnodup : set.Nodup) (hne : set ≠ [])
    (hreach : ∀ l ∈ set, base ≤ l ∧ l < base + 2 ^ m) :
    fixedTree t .add a m base set = some (set.foldl (fun x l => x + t.read32 l a) 0) := by
  obtain ⟨x, hx, hsum⟩ := fixedTree_of_set t a (o := .add) (Q := fun xs x => xs.sum = x)
    (fun x => by simp) (fun xs ys x y hx hy => by rw [List.sum_append, hx, hy]; rfl)
    (fun xs ys x hp hx => hp.sum_eq ▸ hx) hnodup hne hreach
  rw [hx, ← hsum, List.sum_eq_foldl, List.foldl_map]

/-- An operation that keeps one of its two values, the first in the order `le`. -/
structure Selects (o : RedOp) (le : Word → Word → Bool) : Prop where
  trans : ∀ x y z, le x y = true → le y z = true → le x z = true
  keeps : ∀ x y, redOp o x y = x ∧ le x y = true ∨ redOp o x y = y ∧ le y x = true

theorem Selects.refl {o : RedOp} {le : Word → Word → Bool} (h : Selects o le) (x : Word) : le x x = true :=
  (h.keeps x x).elim And.right And.right

theorem selects_min : Selects .min fun x y => decide (x.toInt ≤ y.toInt) where
  trans x y z := by simp only [decide_eq_true_eq]; omega
  keeps x y := by simp only [redOp, sminOf, decide_eq_true_eq]; split <;> simp <;> omega

theorem selects_max : Selects .max fun x y => decide (y.toInt ≤ x.toInt) where
  trans x y z := by simp only [decide_eq_true_eq]; omega
  keeps x y := by simp only [redOp, smaxOf, decide_eq_true_eq]; split <;> simp <;> omega

theorem selects_minu : Selects .minu fun x y => decide (x.toNat ≤ y.toNat) where
  trans x y z := by simp only [decide_eq_true_eq]; omega
  keeps x y := by simp only [redOp, uminOf, decide_eq_true_eq]; split <;> simp <;> omega

theorem selects_maxu : Selects .maxu fun x y => decide (y.toNat ≤ x.toNat) where
  trans x y z := by simp only [decide_eq_true_eq]; omega
  keeps x y := by simp only [redOp, umaxOf, decide_eq_true_eq]; split <;> simp <;> omega

/-- The first of some values in an order. -/
def IsFirst (le : Word → Word → Bool) (xs : List Word) (x : Word) : Prop := x ∈ xs ∧ ∀ y ∈ xs, le x y = true

theorem Selects.isFirst_append {o : RedOp} {le : Word → Word → Bool} (h : Selects o le) {xs ys : List Word} {x y : Word}
    (hx : IsFirst le xs x) (hy : IsFirst le ys y) : IsFirst le (xs ++ ys) (redOp o x y) := by
  rcases h.keeps x y with ⟨e, hle⟩ | ⟨e, hle⟩ <;> rw [e]
  · refine ⟨List.mem_append_left _ hx.1, fun z hz => ?_⟩
    exact (List.mem_append.mp hz).elim (hx.2 z) fun hz => h.trans x y z hle (hy.2 z hz)
  · refine ⟨List.mem_append_right _ hy.1, fun z hz => ?_⟩
    exact (List.mem_append.mp hz).elim (fun hz => h.trans y x z hle (hx.2 z hz)) (hy.2 z)

theorem IsFirst.perm {le : Word → Word → Bool} {xs ys : List Word} {x : Word} (hp : xs.Perm ys) (h : IsFirst le xs x) :
    IsFirst le ys x := ⟨hp.mem_iff.mp h.1, fun y hy => h.2 y (hp.mem_iff.mpr hy)⟩

/-- A selection's tree holds the first of the set's values. -/
theorem fixedTree_selects {o : RedOp} {le : Word → Word → Bool} (h : Selects o le) {m base : Nat} {set : List Nat}
    (hnodup : set.Nodup) (hne : set ≠ []) (hreach : ∀ l ∈ set, base ≤ l ∧ l < base + 2 ^ m) :
    ∃ l ∈ set, fixedTree t o a m base set = some (t.read32 l a) ∧
      ∀ k ∈ set, le (t.read32 l a) (t.read32 k a) = true := by
  obtain ⟨x, hx, hmem, hfirst⟩ := fixedTree_of_set t a (Q := IsFirst le) (fun x => ⟨by simp, by simpa using h.refl x⟩)
    (fun _ _ _ _ => h.isFirst_append) (fun _ _ _ => IsFirst.perm) hnodup hne hreach
  obtain ⟨l, hl, rfl⟩ := List.mem_map.mp hmem
  exact ⟨l, hl, hx, fun k hk => hfirst _ (List.mem_map_of_mem hk)⟩

end

/-! What a reduction writes in a lane. -/

/-- The base lane of the tree of a lane: that of its warp, or the team's. -/
def treeBase (m l : Nat) : Nat := if m = 5 then 32 * (l / 32) else 0

/-- What the model writes in a lane. -/
def Team.reducedLane (t : Team) (f : RedF) (m : Nat) (set : Team → Nat → List Nat) (l : Nat) : Latch :=
  if (set t l).isEmpty then t.read false l f.a
  else ⟨up (t.tree f.op f.a m (treeBase m l) (set t l)), t.anyTaint f.a (set t l)⟩

theorem reducedLane_eq (f : RedF) (m : Nat) (set : Team → Nat → List Nat) (t : Team) (l : Nat)
    (hreach : ∀ k ∈ set t l, treeBase m l ≤ k ∧ k < treeBase m l + 2 ^ m) :
    t.reducedLane f m set l = reduced f m set t l := by
  have hnone := fixedTree_eq_none_iff t f.a f.op m (treeBase m l) (set t l)
  rw [Team.reducedLane, reduced, Team.tree_eq, ← treeBase]
  by_cases he : set t l = []
  · rw [hnone.mpr (by simp [he]), he]
    rfl
  · obtain ⟨k, hk⟩ := List.exists_mem_of_ne_nil _ he
    obtain ⟨x, hx⟩ := Option.ne_none_iff_exists'.mp fun hn => hnone.mp hn k hk (hreach k hk)
    rw [hx, if_neg (by simpa using he)]
    rfl

/-- A word that the model reduces over some sets of lanes in reach writes the fixed tree over those sets. -/
theorem laneWord_of_reduce {i : Instr} (f : RedF) (m : Nat) (set : Team → Nat → List Nat)
    (he : ∀ s, exec i s = s.reduce i f m set)
    (hreach : ∀ t l, ∀ k ∈ set t l, treeBase m l ≤ k ∧ k < treeBase m l + 2 ^ m) :
    LaneWord i f.z .yes [src1 f.a, dstP f.d false] f.d f.n 1 .xl (reduced f m set) := by
  refine laneWord_of (by decide) fun s => (he s).trans ?_
  have hlanes : ∀ t : Team, t.reducedLane f m set = reduced f m set t := fun t =>
    funext fun l => reducedLane_eq f m set t l (hreach t l)
  simp only [← hlanes]
  rfl

/-! The lanes reduced. -/

theorem mem_active {t : Team} {l : Nat} (h : l ∈ t.active) : l < 1024 := by
  have hbit : t.act.getLsbD l = true := (List.mem_filter.mp h).2
  exact Nat.lt_of_not_le fun hle => by simp [BitVec.getLsbD_of_ge t.act l hle] at hbit

theorem mem_warpMates {t : Team} {l m : Nat} : m ∈ warpMates t l ↔ m ∈ t.active ∧ m / 32 = l / 32 := by
  simp [warpMates]

theorem warpMates_reach {t : Team} {l m : Nat} (h : m ∈ warpMates t l) :
    treeBase 5 l ≤ m ∧ m < treeBase 5 l + 2 ^ 5 := by
  have hw := (mem_warpMates.mp h).2
  simp only [treeBase, ↓reduceIte]
  omega

theorem active_ascending (t : Team) : t.active.Pairwise (· < ·) := List.pairwise_lt_range.filter _

theorem warpMates_ascending (t : Team) (l : Nat) : (warpMates t l).Pairwise (· < ·) := (active_ascending t).filter _

/-! Segments (R244). -/

/-- The lane that begins the segment of a lane among ascending lanes, some of which are flagged as heads. -/
def segmentStart (head : Nat → Bool) (lanes : List Nat) (l : Nat) : Nat :=
  (lanes.filter fun m => decide (m ≤ l) && head m).getLastD (lanes.headD 0)

theorem segmentHead_eq (t : Team) (h : BitVec 3) (l : Nat) :
    segmentHead t h l = segmentStart (t.flag · h) (warpMates t l) l := rfl

/-- The first segment runs up to the next head. -/
theorem segments_cons (head : Nat → Bool) (l : Nat) (r : List Nat) :
    segments head (l :: r) = (l :: r.takeWhile (!head ·)) :: segments head (r.dropWhile (!head ·)) := by
  induction r generalizing l with
  | nil => rfl
  | cons x xs ih =>
    rw [segments, ih x]
    by_cases hx : head x = true
    · simp [hx, ih x]
    · simp [hx]

theorem segmentOf_cons (first : List Nat) (segs : List (List Nat)) (l : Nat) :
    segmentOf (first :: segs) l = segs.foldl (fun best x => if x.headD 0 ≤ l then x else best) first := by
  simp [segmentOf]

/-- No segment but the first begins at or below the lane: it is the lane's. -/
theorem segmentOf_first {first : List Nat} {segs : List (List Nat)} {l : Nat} (h : ∀ x ∈ segs, l < x.headD 0) :
    segmentOf (first :: segs) l = first := by
  rw [segmentOf_cons]
  induction segs with
  | nil => rfl
  | cons x xs ih =>
    rw [List.foldl_cons, if_neg (Nat.not_le.mpr (h x List.mem_cons_self))]
    exact ih fun y hy => h y (List.mem_cons_of_mem _ hy)

/-- The second segment begins at or below the lane: the first is not the lane's. -/
theorem segmentOf_later (first second : List Nat) (segs : List (List Nat)) {l : Nat} (h : second.headD 0 ≤ l) :
    segmentOf (first :: second :: segs) l = segmentOf (second :: segs) l := by
  rw [segmentOf_cons, segmentOf_cons, List.foldl_cons, if_pos h]

/-- A segment begins at one of the lanes. -/
theorem segments_begin (head : Nat → Bool) : ∀ lanes : List Nat, ∀ x ∈ segments head lanes, x.headD 0 ∈ lanes
  | [], _, hx => nomatch hx
  | a :: r, x, hx => by
    rw [segments_cons] at hx
    rcases List.mem_cons.mp hx with rfl | hx
    · exact List.mem_cons_self
    · have hmem := segments_begin head (r.dropWhile (!head ·)) x hx
      exact List.mem_cons_of_mem _ ((List.dropWhile_sublist _).subset hmem)
termination_by lanes => lanes.length
decreasing_by exact Nat.lt_succ_of_le (List.length_dropWhile_le _ _)

section
variable {head : Nat → Bool} {a : Nat} {r later : List Nat} {l : Nat}

theorem head_le_of_ascending (h : (a :: r).Pairwise (· < ·)) : ∀ m ∈ a :: r, a ≤ m :=
  List.forall_mem_cons.mpr ⟨Nat.le_refl a, fun m hm => ((List.pairwise_cons.mp h).1 m hm).le⟩

/-- A lane before the second segment lies in the first. -/
theorem segmentStart_first (hr : ∀ m ∈ r, head m = false) (hl : ∀ m ∈ later, l < m) :
    segmentStart head (a :: r ++ later) l = a := by
  have h1 : (r.filter fun m => decide (m ≤ l) && head m) = [] := by
    simp +contextual [List.filter_eq_nil_iff, hr]
  have h2 : (later.filter fun m => decide (m ≤ l) && head m) = [] := by
    simp +contextual [List.filter_eq_nil_iff, fun m hm => Nat.not_le.mpr (hl m hm)]
  rw [segmentStart, List.filter_append, List.filter_cons, h1, h2]
  split <;> rfl

/-- From the second segment's head on, the first plays no part. -/
theorem segmentStart_later {x : Nat} (first : List Nat) (hx : head x = true) (hl : x ≤ l) :
    segmentStart head (first ++ x :: later) l = segmentStart head (x :: later) l := by
  simp only [segmentStart, List.filter_append, List.filter_cons, hx, hl, decide_true, Bool.and_self, ↓reduceIte]
  simp [List.getLastD_eq_getLast?, List.getLast?_append, List.getLast?_cons]

theorem segmentStart_mem {lanes : List Nat} (h : lanes ≠ []) : segmentStart head lanes l ∈ lanes := by
  rw [segmentStart, List.getLastD_eq_getLast?]
  cases e : (lanes.filter fun m => decide (m ≤ l) && head m).getLast? with
  | none =>
    obtain ⟨b, bs, rfl⟩ := List.exists_cons_of_ne_nil h
    exact List.mem_cons_self
  | some m => exact List.mem_of_mem_filter (List.mem_of_getLast? e)

/-- Where the second segment begins above the lane, the lanes that share its segment are the first segment. -/
theorem filter_segmentStart_first (hasc : (a :: r ++ later).Pairwise (· < ·)) (hr : ∀ m ∈ r, head m = false)
    (hhead : ∀ x ∈ later.head?, head x = true) (hl : ∀ m ∈ later, l < m) :
    ((a :: r ++ later).filter fun m => segmentStart head (a :: r ++ later) m == segmentStart head (a :: r ++ later) l) =
      a :: r := by
  obtain ⟨-, hlater, hbelow⟩ := List.pairwise_append.mp hasc
  have hin : ∀ m ∈ a :: r, segmentStart head (a :: r ++ later) m = a := fun m hm => segmentStart_first hr (hbelow m hm)
  have hout : ∀ m ∈ later, segmentStart head (a :: r ++ later) m ≠ a := by
    cases later with
    | nil => simp
    | cons x xs =>
      intro m hm
      rw [segmentStart_later (a :: r) (hhead x rfl) (head_le_of_ascending hlater m hm)]
      exact (hbelow a List.mem_cons_self _ (segmentStart_mem (List.cons_ne_nil x xs))).ne'
  rw [segmentStart_first hr hl, List.filter_append, List.filter_eq_self.mpr fun m hm => beq_iff_eq.mpr (hin m hm),
    List.filter_eq_nil_iff.mpr fun m hm => by simpa using hout m hm, List.append_nil]

/-- Where it begins at or below the lane, they are those among the later lanes. -/
theorem filter_segmentStart_later {x : Nat} (hasc : (a :: r ++ x :: later).Pairwise (· < ·))
    (hr : ∀ m ∈ r, head m = false) (hx : head x = true) (hl : x ≤ l) :
    ((a :: r ++ x :: later).filter fun m =>
        segmentStart head (a :: r ++ x :: later) m == segmentStart head (a :: r ++ x :: later) l) =
      (x :: later).filter fun m => segmentStart head (x :: later) m == segmentStart head (x :: later) l := by
  obtain ⟨-, hlater, hbelow⟩ := List.pairwise_append.mp hasc
  have hstart := segmentStart_later (later := later) (a :: r) hx hl
  have hin : ∀ m ∈ a :: r, segmentStart head (a :: r ++ x :: later) m ≠ segmentStart head (x :: later) l := fun m hm => by
    rw [segmentStart_first hr (hbelow m hm)]
    exact (hbelow a List.mem_cons_self _ (segmentStart_mem (List.cons_ne_nil x later))).ne
  rw [hstart, List.filter_append, List.filter_eq_nil_iff.mpr fun m hm => by simpa using hin m hm, List.nil_append]
  refine List.filter_congr fun m hm => ?_
  rw [segmentStart_later (a :: r) hx (head_le_of_ascending hlater m hm)]

end

/-- The model's segment of a lane is the lanes whose segment begins where the lane's does. -/
theorem segmentOf_segments (head : Nat → Bool) (l : Nat) : ∀ lanes : List Nat, lanes.Pairwise (· < ·) →
    segmentOf (segments head lanes) l = lanes.filter fun m => segmentStart head lanes m == segmentStart head lanes l
  | [], _ => rfl
  | a :: r, hasc => by
    have ih := segmentOf_segments head l (r.dropWhile (!head ·))
    have hr : ∀ m ∈ r.takeWhile (!head ·), head m = false := fun m hm => by simpa using List.mem_takeWhile_imp hm
    have hsplit : a :: r.takeWhile (!head ·) ++ r.dropWhile (!head ·) = a :: r := by simp
    rw [← hsplit] at hasc
    rw [segments_cons, ← hsplit]
    cases hd : r.dropWhile (!head ·) with
    | nil =>
      rw [hd] at hasc
      rw [filter_segmentStart_first hasc hr (by simp) (by simp)]
      exact segmentOf_first (by simp [segments])
    | cons x later =>
      have hx : head x = true := by simpa [hd] using List.head?_dropWhile_not (!head ·) r
      rw [hd] at hasc ih
      obtain ⟨-, hlater, -⟩ := List.pairwise_append.mp hasc
      by_cases hl : x ≤ l
      · rw [filter_segmentStart_later hasc hr hx hl, ← ih hlater, segments_cons, segmentOf_later _ _ _ hl]
      · have habove : ∀ m ∈ x :: later, l < m := fun m hm =>
          (Nat.lt_of_not_le hl).trans_le (head_le_of_ascending hlater m hm)
        rw [filter_segmentStart_first hasc hr (by simpa using hx) habove]
        exact segmentOf_first fun y hy => habove _ (segments_begin head _ y hy)
termination_by lanes => lanes.length
decreasing_by exact Nat.lt_succ_of_le (List.length_dropWhile_le _ _)

/-- SEGRED's lanes in the model are those of R244. -/
theorem segmentOf_mates (t : Team) (h : BitVec 3) (l : Nat) :
    segmentOf (segments (fun x => t.flag x h) (t.mates l)) l = segSet h t l := by
  rw [show t.mates l = warpMates t l from rfl, segmentOf_segments _ l _ (warpMates_ascending t l), segSet]
  refine List.filter_congr fun m hm => ?_
  rw [segmentHead_eq, segmentHead_eq, show warpMates t m = warpMates t l by simp only [warpMates, (mem_warpMates.mp hm).2]]

/-! The words. -/

theorem exec_red (f : RedF) (s : State) : exec (.red f) s = s.reduce (.red f) f 5 redSet := rfl

theorem exec_segred (f : RedF) (h : BitVec 3) (s : State) :
    exec (.segred f h) s = s.reduce (.segred f h) f 5 (segSet h) := by
  rw [show segSet h = fun t l => segmentOf (segments (fun x => t.flag x h) (t.mates l)) l from
    funext fun t => funext fun l => (segmentOf_mates t h l).symm]
  rfl

theorem exec_scan (f : RedF) (s : State) : exec (.scan f) s = s.reduce (.scan f) f 5 scanSet := rfl

theorem exec_wred (f : RedF) (s : State) : exec (.wred f) s = s.reduce (.wred f) f 10 wredSet := rfl

theorem laneWord_red (f : RedF) :
    LaneWord (.red f) f.z .yes [src1 f.a, dstP f.d false] f.d f.n 1 .xl (reduced f 5 redSet) :=
  laneWord_of_reduce f 5 redSet (exec_red f) fun _ _ _ hk => warpMates_reach hk

theorem laneWord_segred (f : RedF) (h : BitVec 3) :
    LaneWord (.segred f h) f.z .yes [src1 f.a, dstP f.d false] f.d f.n 1 .xl (reduced f 5 (segSet h)) :=
  laneWord_of_reduce f 5 (segSet h) (exec_segred f h) fun _ _ _ hk => warpMates_reach (List.mem_of_mem_filter hk)

theorem laneWord_scan (f : RedF) :
    LaneWord (.scan f) f.z .yes [src1 f.a, dstP f.d false] f.d f.n 1 .xl (reduced f 5 scanSet) :=
  laneWord_of_reduce f 5 scanSet (exec_scan f) fun _ _ _ hk => warpMates_reach (List.mem_of_mem_filter hk)

theorem laneWord_wred (f : RedF) :
    LaneWord (.wred f) f.z .yes [src1 f.a, dstP f.d false] f.d f.n 1 .xl (reduced f 10 wredSet) :=
  laneWord_of_reduce f 10 wredSet (exec_wred f) fun _ _ _ hk => by simpa [treeBase] using mem_active hk

/-- Settles O14: the words by the model's sets of lanes, which are those of R243 to R246; the integer trees by what their
operation makes of two lists joined. -/
theorem reductions : Obligations.Reductions := by
  refine ⟨fun f => ⟨laneWord_red f, laneWord_segred f, laneWord_scan f,
      fun s c t tm _ hready => laneWord_wred f s c t tm hready⟩,
    fun t a m base set hnodup hne hreach => ⟨fixedTree_add t a hnodup hne hreach, ?_⟩⟩
  simp only [List.forall_mem_cons, List.not_mem_nil, false_implies, implies_true, and_true]
  exact ⟨fixedTree_selects t a selects_min hnodup hne hreach, fixedTree_selects t a selects_max hnodup hne hreach,
    fixedTree_selects t a selects_minu hnodup hne hreach, fixedTree_selects t a selects_maxu hnodup hne hreach⟩

end Sys2Proof.Machine
end

/-! ## The matrix sequencer's scalar words (R254 to R256, R268, R269) -/

section
namespace Sys2Proof.Machine

/-! What settling leaves as it was: no more than waits end. -/

/-- Teams may have left the waits they were parked at; the blocks and main memory are the same. -/
structure OnlyWaits (s s' : State) : Prop where
  byte : ∀ a, s'.homeByte a = s.homeByte a
  blocks : s'.blocks = s.blocks
  teams : ∀ k, (PMap.get? s'.teams k).map Team.asleep = (PMap.get? s.teams k).map Team.asleep

theorem OnlyWaits.refl (s : State) : OnlyWaits s s := ⟨fun _ => rfl, rfl, fun _ => rfl⟩

theorem OnlyWaits.trans {s s' s'' : State} (h : OnlyWaits s s') (h' : OnlyWaits s' s'') : OnlyWaits s s'' :=
  ⟨fun a => (h'.byte a).trans (h.byte a), h'.blocks.trans h.blocks, fun k => (h'.teams k).trans (h.teams k)⟩

theorem OnlyWaits.foldl {α : Type} (g : State → α → State) (hg : ∀ s x, OnlyWaits s (g s x)) (l : List α) :
    ∀ s, OnlyWaits s (l.foldl g s) := by
  induction l with
  | nil => exact OnlyWaits.refl
  | cons x l ih => exact fun s => (hg s x).trans (ih _)

theorem OnlyWaits.setTeam {s : State} {c t : Nat} {tm x : Team} (ht : s.team? c t = some tm) (hx : x.asleep = tm.asleep) :
    OnlyWaits s (s.setTeam c t x) := by
  refine ⟨fun _ => rfl, rfl, fun k => ?_⟩
  rw [State.setTeam_teams, PMap.get?_set]
  split
  · subst k; rw [show PMap.get? s.teams (16 * c + t) = some tm from ht]; exact congrArg some hx
  · rfl

theorem OnlyWaits.modTeam (s : State) (c t : Nat) {f : Team → Team} (hf : ∀ x, (f x).asleep = x.asleep) :
    OnlyWaits s (s.modTeam c t f) := by
  refine ⟨fun _ => rfl, rfl, fun k => ?_⟩
  rw [State.modTeam_teams, PMap.get?_modify]
  split
  · rw [Option.map_map, show Team.asleep ∘ f = Team.asleep from funext hf]
  · rfl

theorem State.emitAt_onlyWaits (s : State) (x rank ty w : Nat) : OnlyWaits s (s.emitAt x rank ty w) := by
  have only := s.emitAt_only x rank ty w 0 0
  refine ⟨only.byte, only.blocks, fun k => congrArg (Option.map Team.asleep) ?_⟩
  simpa only [State.team?, Nat.mul_zero, Nat.zero_add] using s.emitAt_team x rank ty w 0 k

theorem State.emitWait_onlyWaits (s : State) (c t : Nat) (w : WaitWord) (r : Bool) : OnlyWaits s (s.emitWait c t w r) :=
  s.emitAt_onlyWaits ..

/-- A parked team made live differs from what it was by its wait alone. -/
theorem State.unpark_onlyWaits {s : State} {c t : Nat} {tm : Team} (ht : s.team? c t = some tm) (hp : tm.status = .parked)
    (left : WaitWord) (ready : Nat) :
    OnlyWaits s (s.setTeam c t { tm with status := .live, left := left, wait := noWait, readyAt := ready }) :=
  .setTeam ht (by simp [Team.asleep, hp])

theorem State.wake_onlyWaits (s : State) (c t : Nat) : OnlyWaits s (s.wake c t) := by
  unfold State.wake
  split
  next tm ht =>
    split
    · exact (State.unpark_onlyWaits ht ‹_› tm.left s.cycle).trans (State.emitWait_onlyWaits ..)
    · exact .refl s
  · exact .refl s

theorem State.leaveWait_onlyWaits (s : State) (c t : Nat) : OnlyWaits s (s.leaveWait c t) := by
  unfold State.leaveWait
  split
  next tm ht =>
    split
    · exact (State.unpark_onlyWaits ht ‹_› _ s.cycle).trans (State.emitWait_onlyWaits ..)
    · exact .refl s
  · exact .refl s

theorem State.showTrap_onlyWaits (s : State) (c : Nat) (b : Block) : OnlyWaits s (s.showTrap c b) := by
  unfold State.showTrap
  split
  · exact .refl s
  next t _ =>
    split
    · exact .refl s
    next tm _ =>
      have left : OnlyWaits s (if tm.p1 && tm.seqDue then s else s.leaveWait c t) := by
        split
        · exact .refl s
        · exact s.leaveWait_onlyWaits c t
      have shown (s : State) : OnlyWaits s ((s.modTeam c t fun u => { u with seqDue := true }).emitWait c t seqWait false) :=
        (OnlyWaits.modTeam s c t (f := fun u => { u with seqDue := true }) fun _ => rfl).trans (State.emitWait_onlyWaits ..)
      split
      · exact .refl s
      · simp only []
        split
        · exact left
        · exact left.trans (shown _)

/-- Settling ends waits and does nothing else (R372, R277). -/
theorem State.settle_onlyWaits (s : State) : OnlyWaits s s.settle := by
  unfold State.settle
  refine (OnlyWaits.foldl _ (fun s p => ?_) s.blocks s).trans (OnlyWaits.foldl _ (fun s p => ?_) _ _)
  · split
    · exact s.showTrap_onlyWaits ..
    · exact .refl s
  · split
    · split
      · exact s.wake_onlyWaits ..
      · exact .refl s
    · exact .refl s

/-! A change of one block's sequencer. -/

@[simp] theorem State.modSeq_blocks (s : State) (c : Nat) (f : Sequencer → Sequencer) :
    (s.modSeq c f).blocks = PMap.modify s.blocks c fun b => { b with seq := f b.seq } := rfl

theorem State.block?_modSeq (s : State) (c : Nat) (f : Sequencer → Sequencer) :
    (s.modSeq c f).block? c = (s.block? c).map fun b => { b with seq := f b.seq } := by
  simp only [State.block?, State.modSeq_blocks, PMap.get?_modify, if_pos]

theorem OnlySeq.modSeq {s : State} {c : Nat} {b : Block} (f : Sequencer → Sequencer) :
    OnlySeq s (s.modSeq c f) c b { b with seq := f b.seq } :=
  ⟨rfl, fun k hk => by rw [State.modSeq_blocks, PMap.get?_modify, if_neg hk], fun _ => rfl, fun _ => rfl⟩

theorem OnlySeq.trans {s s' s'' : State} {c : Nat} {b b' b'' : Block} (h : OnlySeq s s' c b b') (h' : OnlySeq s' s'' c b' b'') :
    OnlySeq s s'' c b b'' := by
  refine ⟨?_, fun k hk => (h'.blocks k hk).trans (h.blocks k hk), fun k => (h'.teams k).trans (h.teams k),
    fun a => (h'.byte a).trans (h.byte a)⟩
  have hb := h.block
  rw [← h'.block] at hb
  exact hb

theorem OnlySeq.waits {s s' s'' : State} {c : Nat} {b b' : Block} (h : OnlySeq s s' c b b') (w : OnlyWaits s' s'') :
    OnlySeq s s'' c b b' :=
  h.trans ⟨rfl, fun k _ => by rw [w.blocks], w.teams, w.byte⟩

/-! The word after (R250, R258). -/

/-- Where no loop ends at the word, the next one follows it in the stream. -/
theorem Sequencer.step_of_noLoopEnd {q : Sequencer} (h : NoLoopEnd q) : q.step q.pc = { q with pc := q.pc + 4 } := by
  cases hl : q.loops with
  | nil => simp [Sequencer.step, hl, loopEnd]
  | cons x r => simp [Sequencer.step, hl, loopEnd, h x r hl]

theorem Sequencer.after_of_noLoopEnd {q : Sequencer} {z : Bool} (h : z = true ∨ NoLoopEnd q) :
    q.after z = if z then { q with last := true, loops := [], parked := false, ended := q.engine.isNone }
      else { q with pc := q.pc + 4, parked := false } := by
  cases z with
  | true => rfl
  | false => simp [Sequencer.after, Sequencer.step_of_noLoopEnd (h.resolve_left Bool.false_ne_true)]

/-! From a word's meaning to what it does. -/

/-- A word that a sequencer may execute, and that is done with it: the sequencer goes on to the word after. -/
theorem State.seqIssue_done {s s' : State} {c : Nat} {b : Block} {i : Instr} (h : SeqReady s c b i) (z : Bool)
    {f : Nat → Block → State → SeqAct} (hf : f c b s = .done s') :
    s.seqIssue i z f = .next (s'.modSeq c fun q => q.after z).settle := by
  obtain ⟨ended, last, trap, stopping⟩ := h.running
  have hready : s.seqReady c = true := by simp [State.seqReady, h.block, ended, last, trap, stopping]
  simp [State.seqIssue, h.cur, hready, h.block, h.legal, hf]

/-- A word on the sequencer's registers: its meaning touches neither the stream's position nor its loops. -/
theorem seqWord_of_scalar {i : Instr} {z : Bool} {g : Sequencer → Sequencer} (he : ∀ s, exec i s = s.seqScalar i z g)
    (hg : ∀ q, (g q).pc = q.pc ∧ (g q).loops = q.loops) : SeqWord i z g := by
  intro s c b hready hend
  obtain ⟨hpc, hloops⟩ := hg b.seq
  have hend' : z = true ∨ NoLoopEnd (g b.seq) := by simpa only [NoLoopEnd, hpc, hloops] using hend
  have hwaits := State.settle_onlyWaits ((s.modSeq c g).modSeq c fun q => q.after z)
  refine ⟨_, { b with seq := (g b.seq).after z }, (he s).trans (State.seqIssue_done hready z rfl), ?_,
    ((OnlySeq.modSeq g).trans (OnlySeq.modSeq _)).waits hwaits, ?_⟩
  · simp only [State.block?, hwaits.blocks]
    exact (State.block?_modSeq ..).trans (by rw [State.block?_modSeq, hready.block]; rfl)
  · rw [← hpc]
    exact Sequencer.after_of_noLoopEnd hend'

/-- The scalar arithmetic of R254, by a function that agrees with the model's. -/
theorem seqWord_of_scalarOp {i : Instr} {f : MOp} {g h : Word → Word → Word} (he : ∀ s, exec i s = s.scalarOp i f g)
    (hgh : ∀ a b, g a b = h a b) :
    SeqWord i f.z fun q =>
      { q with m := PMap.set q.m f.d.toNat (h (q.mreg f.a.toNat) (if f.i then f.b.setWidth 32 else q.mreg f.b.toNat)) } := by
  obtain rfl : g = h := funext₂ hgh
  exact seqWord_of_scalar he fun _ => ⟨rfl, rfl⟩

/-! The model's functions of words as numbers (R254, R255). -/

theorem shiftLeft_eq_ofNat (x : Word) (n : Nat) : x <<< n = BitVec.ofNat 32 (x.toNat * 2 ^ n) :=
  BitVec.eq_of_toNat_eq (by simp [Nat.shiftLeft_eq])

theorem shiftRight_eq_ofNat (x : Word) (n : Nat) : x >>> n = BitVec.ofNat 32 (x.toNat / 2 ^ n) := by
  have hlt : x.toNat / 2 ^ n < 2 ^ 32 := (Nat.div_le_self ..).trans_lt x.isLt
  exact BitVec.eq_of_toNat_eq (by rw [BitVec.toNat_ushiftRight, Nat.shiftRight_eq_div_pow, BitVec.toNat_ofNat, Nat.mod_eq_of_lt hlt])

/-- Signed order: where neither word is less they are the same word, so either choice is the lesser. -/
theorem signedMin_eq (x y : Word) : (if x.slt y then x else y) = if x.toInt ≤ y.toInt then x else y := by
  rw [BitVec.slt_eq_decide]
  rcases lt_trichotomy x.toInt y.toInt with h | h | h
  · simp [h, h.le]
  · simp [BitVec.toInt_inj.mp h]
  · simp [h.not_ge, h.not_gt]

theorem signedMax_eq (x y : Word) : (if x.slt y then y else x) = if x.toInt ≤ y.toInt then y else x := by
  rw [BitVec.slt_eq_decide]
  rcases lt_trichotomy x.toInt y.toInt with h | h | h
  · simp [h, h.le]
  · simp [BitVec.toInt_inj.mp h]
  · simp [h.not_ge, h.not_gt]

theorem toNat_append_add {m n : Nat} (x : BitVec m) (y : BitVec n) : (x ++ y).toNat = x.toNat * 2 ^ n + y.toNat := by
  rw [BitVec.toNat_append, ← Nat.shiftLeft_add_eq_or_of_lt y.isLt, Nat.shiftLeft_eq]

/-- MLI.M's word: bits 23 to 12 replaced. -/
theorem middle_eq_ofNat (x : Word) (imm : BitVec 12) :
    (x.extractLsb' 24 8 ++ imm ++ x.extractLsb' 0 12).setWidth 32 =
      BitVec.ofNat 32 (x.toNat / 2 ^ 24 * 2 ^ 24 + imm.toNat * 2 ^ 12 + x.toNat % 2 ^ 12) := by
  apply BitVec.eq_of_toNat_eq
  simp only [BitVec.toNat_setWidth, BitVec.toNat_ofNat, toNat_append_add, BitVec.extractLsb'_toNat, Nat.shiftRight_eq_div_pow]
  omega

/-- MLI.T's word: bits 31 to 24 replaced. -/
theorem top_eq_ofNat (x : Word) (imm : BitVec 8) :
    (imm ++ x.extractLsb' 0 24).setWidth 32 = BitVec.ofNat 32 (imm.toNat * 2 ^ 24 + x.toNat % 2 ^ 24) := by
  apply BitVec.eq_of_toNat_eq
  simp only [BitVec.toNat_setWidth, BitVec.toNat_ofNat, toNat_append_add, BitVec.extractLsb'_toNat, Nat.shiftRight_eq_div_pow]
  omega

/-! The words. -/

theorem seqWord_mliM (d : BitVec 5) (imm : BitVec 12) (z : Bool) :
    SeqWord (.mliM d imm z) z fun q =>
      let x := (q.mreg d.toNat).toNat
      { q with m := PMap.set q.m d.toNat (BitVec.ofNat 32 (x / 2 ^ 24 * 2 ^ 24 + imm.toNat * 2 ^ 12 + x % 2 ^ 12)) } := by
  simp only [← middle_eq_ofNat]
  exact seqWord_of_scalar (fun _ => rfl) fun _ => ⟨rfl, rfl⟩

theorem seqWord_mliT (d : BitVec 5) (imm : BitVec 8) (z : Bool) :
    SeqWord (.mliT d imm z) z fun q =>
      { q with m := PMap.set q.m d.toNat (BitVec.ofNat 32 (imm.toNat * 2 ^ 24 + (q.mreg d.toNat).toNat % 2 ^ 24)) } := by
  simp only [← top_eq_ofNat]
  exact seqWord_of_scalar (fun _ => rfl) fun _ => ⟨rfl, rfl⟩

theorem seqWord_mmov (d : BitVec 5) (a : BitVec 6) (src : MSrc) (z : Bool) :
    SeqWord (.mmov d a src z) z fun q => { q with m := PMap.set q.m d.toNat (q.source a.toNat src) } :=
  seqWord_of_scalar (fun _ => rfl) fun _ => ⟨rfl, rfl⟩

theorem Sequencer.source_eng (q : Sequencer) (a : BitVec 6) :
    q.source a.toNat .eng = if a = 0 then q.wbase else BitVec.ofNat 32 q.period := by
  rw [Sequencer.source]
  exact if_congr (BitVec.toNat_eq (y := 0)).symm rfl rfl

/-- Settles O42: every scalar word has the shape of `seqWord_of_scalar`; what remains is that the model's functions of words
are those of R254 and R255. -/
theorem matrixScalars : Obligations.MatrixScalars := by
  refine ⟨?_, fun d imm z => ⟨seqWord_of_scalar (fun _ => rfl) fun _ => ⟨rfl, rfl⟩, seqWord_mliM d imm z⟩, seqWord_mliT,
    fun d a src z => ?_, fun n a z => seqWord_of_scalar (fun _ => rfl) fun _ => ⟨rfl, rfl⟩,
    fun a z => seqWord_of_scalar (fun _ => rfl) fun _ => ⟨rfl, rfl⟩,
    fun p z => seqWord_of_scalar (fun _ => rfl) fun _ => ⟨rfl, rfl⟩⟩
  · simp only [List.forall_mem_cons, List.not_mem_nil, false_implies, implies_true, and_true]
    exact ⟨fun f => seqWord_of_scalarOp (fun _ => rfl) fun _ _ => rfl,
      fun f => seqWord_of_scalarOp (fun _ => rfl) fun _ _ => rfl,
      fun f => seqWord_of_scalarOp (fun _ => rfl) fun _ _ => rfl,
      fun f => seqWord_of_scalarOp (fun _ => rfl) fun _ _ => rfl,
      fun f => seqWord_of_scalarOp (fun _ => rfl) fun _ _ => rfl,
      fun f => seqWord_of_scalarOp (fun _ => rfl) fun _ _ => rfl,
      fun f => seqWord_of_scalarOp (fun _ => rfl) fun x y => shiftLeft_eq_ofNat x (y.toNat % 32),
      fun f => seqWord_of_scalarOp (fun _ => rfl) fun x y => shiftRight_eq_ofNat x (y.toNat % 32),
      fun f => seqWord_of_scalarOp (fun _ => rfl) signedMin_eq,
      fun f => seqWord_of_scalarOp (fun _ => rfl) signedMax_eq⟩
  · cases src with
    | m => exact seqWord_mmov d a .m z
    | sd => exact seqWord_mmov d a .sd z
    | lc => exact seqWord_mmov d a .lc z
    | eng => simpa only [Sequencer.source_eng] using seqWord_mmov d a .eng z

end Sys2Proof.Machine
end

/-! ## The words on one register (R215, R345, R382, R383, R411) -/

section
namespace Sys2Proof.Machine

/-! A word on special registers whose meaning reads the state. -/

/-- The team `x` holds what `tm` holds, and stands at the same word of the same clause. -/
structure SameHeld (tm x : Team) : Prop where
  pc : x.pc = tm.pc
  words : x.words = tm.words
  regs : SameRegs tm x
  flags : SameFlags tm x
  latches : SameLatches tm x

/-- A word on special registers that may also write the state's clock where `Team.rest` does not look. -/
theorem teamWord_of_state {i : Instr} {z : Bool} {us : List Use} {f : State → Team → Team} {g : Team → Team}
    (he : ∀ s, exec i s = s.compute i z .no us (f s)) (hf : ∀ s tm, SameHeld tm (f s tm))
    (hg : ∀ s tm, (f s tm).rest = (g tm).rest) : TeamWord i z us g := by
  intro s c t tm hready
  obtain ⟨s', tm', hexec, hteam, adv, hrest, hv, hu, hk, hlat, only⟩ := State.compute_ready hready (f s)
  have held := hf s tm
  refine ⟨s', tm', (he s).trans hexec, hteam,
    ⟨adv.pc.trans (by rw [held.pc]), adv.advs, adv.words.trans (by rw [held.words]), adv.latW⟩,
    ⟨fun l r hr => (laneHeld_congr hrest hv l r).trans (held.regs.1 l r hr),
      fun r => (uniHeld_congr hrest hu r).trans (held.regs.2 r)⟩,
    fun l k => .trans ?_ (held.flags l k), fun l e he => (latch_of_lat hlat l e).trans (held.latches l e he),
    hrest.trans (hg s tm), only⟩
  simp only [Team.flag, hk]

/-! The window registers (R215). -/

/-- Cut to one register first, the operand has the same low bits. -/
theorem Team.read32_setWidth (t : Team) (l : Nat) (a : Opd) {n : Nat} (hn : n ≤ 32) :
    (t.read32 l a).setWidth n = (t.read false l a).val.setWidth n :=
  BitVec.setWidth_setWidth_of_le _ hn

theorem teamWord_of_ix {i : Instr} {z : Bool} {us : List Use} {x : Team → BitVec 9}
    (he : ∀ s, exec i s = s.compute i z .no us fun t => { t with ix := x t }) :
    TeamWord i z us fun t => { t with ix := x t } :=
  teamWord_of he fun _ => by simp

theorem teamWord_of_six {i : Instr} {z : Bool} {us : List Use} {x : Team → BitVec 6}
    (he : ∀ s, exec i s = s.compute i z .no us fun t => { t with six := x t }) :
    TeamWord i z us fun t => { t with six := x t } :=
  teamWord_of he fun _ => by simp

theorem teamWord_setix (a : Opd) (z : Bool) :
    TeamWord (.setix a z) z [srcOnce a] fun t => { t with ix := (t.read false t.first a).val.setWidth 9 } := by
  simp only [← Team.read32_setWidth (n := 9) _ _ _ (by decide)]
  exact teamWord_of_ix fun _ => rfl

theorem teamWord_setsix (a : Opd) (z : Bool) :
    TeamWord (.setsix a z) z [srcOnce a] fun t => { t with six := (t.read false t.first a).val.setWidth 6 } := by
  simp only [← Team.read32_setWidth (n := 6) _ _ _ (by decide)]
  exact teamWord_of_six fun _ => rfl

/-! The landing pad (R345). -/

theorem teamWord_lpad (tag : BitVec 8) (z : Bool) : TeamWord (.lpad tag z) z [] id :=
  teamWord_of (fun _ => rfl) fun _ => by simp

/-! The heartbeat (R383, R411). -/

/-- HEART changes the token and the watchdog's clocks at most. -/
theorem Team.heart_eq (t : Team) (x : Word) (n : Nat) : t.heart x n = { t with
    htoken := (t.heart x n).htoken, wdogFrom := (t.heart x n).wdogFrom
    wdogElapsed := (t.heart x n).wdogElapsed, wdog2From := (t.heart x n).wdog2From } := by
  unfold Team.heart
  split <;> rfl

theorem Team.heart_sameHeld (t : Team) (x : Word) (n : Nat) : SameHeld t (t.heart x n) := by
  rw [t.heart_eq x n]
  exact ⟨rfl, rfl, ⟨fun _ _ _ => rfl, fun _ => rfl⟩, fun _ _ => rfl, fun _ _ _ => rfl⟩

/-- The first interval's clock, which starts again, is no part of the rest. -/
theorem Team.heart_rest (t : Team) (x : Word) (n : Nat) : (t.heart x n).rest =
    (if x = t.htoken then t else { t with htoken := x, wdog2From := if t.pers then none else t.wdog2From }).rest := by
  unfold Team.heart
  split <;> rfl

theorem teamWord_heart (a : Opd) (z : Bool) : TeamWord (.heart a z) z [srcOnce a] fun tm =>
    let x : Word := (tm.read false tm.first a).val.setWidth 32
    if x = tm.htoken then tm
    else { tm with htoken := x, wdog2From := if tm.pers then none else tm.wdog2From } :=
  teamWord_of_state (f := fun s tm => tm.heart (tm.read32 tm.first a) s.cycle) (fun _ => rfl)
    (fun _ tm => tm.heart_sameHeld ..) fun _ tm => tm.heart_rest ..

/-! YIELD (R382). -/

section
variable {s : State} {c t : Nat} {tm : Team} {z : Bool}

theorem exec_yield_ready (h : Ready s c t tm (.yield z) z .no []) :
    exec (.yield z) s = .next ((s.finish c t true).modTeam c t fun u => { u with yielded := true }) :=
  State.issue_ready h fun c t _ s => (s.finish c t true).modTeam c t fun u => { u with yielded := true }

/-- The clause has ended before the team is marked, so the mark is all that YIELD adds to a clause's end. -/
theorem yield_endsClause (h : Ready s c t tm (.yield z) z .no []) :
    ∃ s' tm', exec (.yield z) s = .next s' ∧ s'.team? c t = some tm' ∧ Advanced tm tm' true ∧ SameRegs tm tm' ∧
      SameFlags tm tm' ∧ tm'.rest = ({ tm with yielded := true } : Team).rest ∧ OnlyTeam s s' c t := by
  obtain ⟨x, hteam, adv, hrest, hv, hu, hk, -⟩ := State.finish_team h.team true
  refine ⟨_, { x with yielded := true }, exec_yield_ready h, by rw [State.team?_modTeam, hteam]; rfl,
    ⟨adv.pc, adv.advs, adv.words, adv.latW⟩,
    ⟨fun l r _ => laneHeld_congr hrest hv l r, fun r => uniHeld_congr hrest hu r⟩, fun l k => ?_,
    congrArg (fun y : Team => { y with yielded := true }) hrest,
    (State.finish_only s c t true).trans (OnlyTeam.modTeam ..)⟩
  simp only [Team.flag, hk]

end

/-- Settles O25: SETIX, SETSIX, LPAD and HEART are words whose effect is on the team alone, HEART by the clock besides; YIELD is
the end of a clause and its mark. -/
theorem wordsOnOneRegister : Obligations.WordsOnOneRegister :=
  ⟨fun a z => ⟨teamWord_setix a z, teamWord_setsix a z⟩, fun _ _ => teamWord_of_ix fun _ => rfl,
    fun _ _ => teamWord_of_six fun _ => rfl, teamWord_lpad, teamWord_heart, fun _ _ _ _ _ h => yield_endsClause h⟩

end Sys2Proof.Machine
end
